-- ==== Sys2Proof/Word.lean ====
section
/-! DEFINITION. The word of the block: every register, buffer word and collaborator value is 32 bits
(spec 00_scope R6, 20_memory R43). There is no byte order, because nothing splits a word into bytes. -/

namespace Sys2Proof

/-- A 32-bit register value; bit 0 is the least significant (R6). -/
abbrev Word := BitVec 32

end Sys2Proof
end

