-- ==== Sys2Proof/Config.lean ====
section
/-! DEFINITION. What an implementation fixes (spec 00_scope R4) as types and constants, and the free values.
The default values of the open parameters stand in Machine/Catalog.lean. -/

namespace Sys2Proof

/-- `PROFILE`: which coefficient preset the device uses (R4, R66). -/
inductive Profile where
  | standard | itu656
  deriving DecidableEq, Repr

/-- `GEN`: the generation flag that selects the register write sequence (R4, R66, R144, R145). -/
inductive Gen where
  | offsetRegisters | dynamicAddressing
  deriving DecidableEq, Repr

/-- `COLLAB`: the collaborator's read policy (R47). -/
inductive Collab where
  | shadow | oracle
  deriving DecidableEq, Repr

/-- Layer `type` of a format request (R66). -/
inductive LayerType where
  | rgb | yuv | alpha
  deriving DecidableEq, Repr

/-- `transparencyMode` (R66, conflict C10). -/
inductive TranspMode where
  | layer | pixel | clutArgb6565 | clutArgb8888 | clutAyuv8888
  deriving DecidableEq, Repr

/-- `classification` of a descriptor (R66, R80). -/
inductive Classification where
  | rgb | yuv | alphaOnly | clutIndexed
  deriving DecidableEq, Repr

/-- `clutVariant` of a descriptor (R66, R80). -/
inductive ClutVariant where
  | none | argb6565 | argb8888 | ayuv8888
  deriving DecidableEq, Repr

/-- A channel field `(bitOffset, bitLength)`; length 0 is an absent channel (R6, R80). -/
structure ChannelField where
  offset : Nat
  length : Nat
  deriving DecidableEq, Repr

/-- A `PixelFormat` descriptor: one row of the catalog (R80, R81). Its `id` is the row's index. -/
structure PixelFormat where
  /-- key column `type` -/
  type : LayerType
  /-- key column `req bpp`: the depth a request must name (R83) -/
  reqBpp : Nat
  /-- key column `tm` -/
  tm : TranspMode
  /-- key column `sw`, also the descriptor's `componentOrder` -/
  swapped : Bool
  cls : Classification
  /-- canonical `bitsPerPixel` (R85) -/
  bpp : Nat
  storageBits : Nat
  ch0 : ChannelField
  ch1 : ChannelField
  ch2 : ChannelField
  ch3 : ChannelField
  clutVariant : ClutVariant
  /-- encoding converts RGB to YUV first (R125) -/
  conv : Bool
  is422 : Bool
  /-- native width of the layer alpha, 0 when the format has none (R82) -/
  alphaBits : Nat
  deriving DecidableEq, Repr

/-- Forward coefficient record: ten 32-bit two's-complement constants (R4, R100). -/
structure FwdCoeffs where
  cy : Word
  cyr : Word
  cyg : Word
  cyb : Word
  cur : Word
  cug : Word
  cub : Word
  cvr : Word
  cvg : Word
  cvb : Word
  deriving DecidableEq, Repr

/-- One output row `m[i][0..2], k[i]` of the reverse record (R103). -/
structure RevRow where
  my : Word
  mu : Word
  mv : Word
  k : Word
  deriving DecidableEq, Repr

/-- Reverse coefficient record `REV` (R103); every constant is 32-bit two's complement and `norm > 0`. -/
structure RevCoeffs where
  norm : Word
  oy : Word
  ou : Word
  ov : Word
  red : RevRow
  green : RevRow
  blue : RevRow
  deriving DecidableEq, Repr

/-- The immutable parameters of one device instance (R4, R183; assumption log 1). `REGMAP` and the CLUT
stride are left out: no rule uses them (R45). -/
structure Params where
  profile : Profile
  gen : Gen
  nlayers : Nat
  fwdStandard : FwdCoeffs
  fwdItu656 : FwdCoeffs
  revStandard : RevCoeffs
  revItu656 : RevCoeffs
  catalog : Vector PixelFormat 24
  maxw : Nat
  maxh : Nat
  collab : Collab
  deriving DecidableEq, Repr

/-- `CLUT_SIZE` (R4). -/
def Config.clutSize : Nat := 256

/-- `SCALE`, the fixed-point scale of the forward conversion (R4, R100). -/
def Config.scale : Nat := 100000

/-- `COFF`, the chroma offset constant of the forward conversion (R4, R100). -/
def Config.coff : Nat := 12800000

/-- `ANORM`, full scale of a normalised alpha value (R4). -/
def Config.anorm : Nat := 1023

/-- `LAYER_NREGS`, the number of register slots of one layer (R4, R160). -/
def Config.layerNregs : Nat := 10

/-- A value the spec leaves unspecified (R24, R47, R53): nothing constrains it. The argument is the model's
counter of the values drawn so far (assumption log 3). -/
opaque Config.freeWord : Nat → Word

end Sys2Proof
end

