-- ==== Sys2Proof/Machine/Catalog.lean ====
section
/-! DEFINITION. The default values of the open parameters: the 24 catalog rows (spec 40_catalog R81), the
forward and reverse coefficient presets (41_colorspace R101, R104) and the device defaults; the numeric
codes of the enumerations (30_encoding R66); the lookup (R83) and the shape rules of the parameters. -/

namespace Sys2Proof

/-! ### Numeric codes (R66) -/

def LayerType.code : LayerType → Nat
  | .rgb => 0
  | .yuv => 1
  | .alpha => 2

def TranspMode.code : TranspMode → Nat
  | .layer => 0
  | .pixel => 1
  | .clutArgb6565 => 2
  | .clutArgb8888 => 3
  | .clutAyuv8888 => 4

def swapCode : Bool → Nat
  | false => 0
  | true => 1

def Classification.code : Classification → Nat
  | .rgb => 0
  | .yuv => 1
  | .alphaOnly => 2
  | .clutIndexed => 3

def ClutVariant.code : ClutVariant → Nat
  | .none => 0
  | .argb6565 => 1
  | .argb8888 => 2
  | .ayuv8888 => 3

def Profile.code : Profile → Nat
  | .standard => 0
  | .itu656 => 1

def Gen.code : Gen → Nat
  | .offsetRegisters => 0
  | .dynamicAddressing => 1

namespace Machine

/-! ### The descriptor (R80, R82) -/

/-- `bytesPerPixel(f) = storageBits / 8` (R82). -/
def bytesPerPixel (f : PixelFormat) : Nat := f.storageBits / 8

/-- `layerAlpha(f)` holds when the transparency mode is LAYER (R82). -/
def layerAlpha (f : PixelFormat) : Bool := decide (f.tm = .layer)

/-- The absent channel (R81). -/
def absentChannel : ChannelField := ⟨0, 0⟩

/-- Two channel fields share no bit (R80). -/
def fieldsDisjoint (p q : ChannelField) : Bool :=
  p.length == 0 || q.length == 0 || decide (p.offset + p.length ≤ q.offset) || decide (q.offset + q.length ≤ p.offset)

/-- A channel field lies inside the word and, when absent, is `(0, 0)` (R68, R80). -/
def channelWf (p : ChannelField) : Bool :=
  decide (p.offset + p.length ≤ 32) && (p.length != 0 || p.offset == 0)

/-- The invariants of one descriptor: fields inside the word and disjoint, depths and widths in the sets
the spec gives (R80, R82). -/
def formatWf (f : PixelFormat) : Bool :=
  channelWf f.ch0 && channelWf f.ch1 && channelWf f.ch2 && channelWf f.ch3
  && fieldsDisjoint f.ch0 f.ch1 && fieldsDisjoint f.ch0 f.ch2 && fieldsDisjoint f.ch0 f.ch3
  && fieldsDisjoint f.ch1 f.ch2 && fieldsDisjoint f.ch1 f.ch3 && fieldsDisjoint f.ch2 f.ch3
  && [8, 16, 20, 24, 30, 32].contains f.bpp
  && [8, 16, 32].contains f.storageBits
  && (if layerAlpha f then [3, 6, 8, 10].contains f.alphaBits else f.alphaBits == 0)

/-- Two rows have the same lookup key. -/
def sameKey (f g : PixelFormat) : Bool :=
  f.type == g.type && f.reqBpp == g.reqBpp && f.tm == g.tm && f.swapped == g.swapped

/-- Two rows have the same `(classification, bitsPerPixel, transparencyMode, componentOrder)` (R80). -/
def sameConfiguration (f g : PixelFormat) : Bool :=
  f.cls == g.cls && f.bpp == g.bpp && f.tm == g.tm && f.swapped == g.swapped

/-- The catalog's uniqueness invariant under both readings of its tuple (R80, R82). -/
def catalogUnique (c : List PixelFormat) : Bool :=
  decide (c.Pairwise fun f g => sameKey f g = false ∧ sameConfiguration f g = false)

/-- The key of row `f` equals the four request values, compared as numbers (R83). -/
def keyMatches (f : PixelFormat) (type bpp tm sw : Word) : Bool :=
  f.type.code == type.toNat && f.reqBpp == bpp.toNat && f.tm.code == tm.toNat && swapCode f.swapped == sw.toNat

/-- `resolve(type, bpp, tm, sw)`: the id of the row whose key columns equal the arguments (R83). -/
def resolve (rows : Vector PixelFormat 24) (type bpp tm sw : Word) : Option (Fin 24) :=
  (List.finRange 24).find? fun i => keyMatches rows[i] type bpp tm sw

/-! ### The default catalog (R81)

Columns: type, requested depth, transparency mode, swapped; classification, canonical depth, storage bits;
channels 0 to 3; CLUT variant, conv, is422, alphaBits. -/

def catalogRows0 : List PixelFormat :=
  [ -- 0 A8
    ⟨.alpha, 8, .pixel, false, .alphaOnly, 8, 8, ⟨0, 8⟩, ⟨0, 0⟩, ⟨0, 0⟩, ⟨0, 0⟩, .none, false, false, 0⟩,
    -- 1 C8_ARGB6565
    ⟨.rgb, 8, .clutArgb6565, false, .clutIndexed, 8, 8, ⟨16, 6⟩, ⟨11, 5⟩, ⟨5, 6⟩, ⟨0, 5⟩, .argb6565, false, false, 0⟩,
    -- 2 C8_ARGB8888
    ⟨.rgb, 8, .clutArgb8888, false, .clutIndexed, 8, 8, ⟨24, 8⟩, ⟨16, 8⟩, ⟨8, 8⟩, ⟨0, 8⟩, .argb8888, false, false, 0⟩,
    -- 3 C8_AYUV8888
    ⟨.yuv, 8, .clutAyuv8888, false, .clutIndexed, 8, 8, ⟨24, 8⟩, ⟨16, 8⟩, ⟨8, 8⟩, ⟨0, 8⟩, .ayuv8888, true, false, 0⟩,
    -- 4 RGB332
    ⟨.rgb, 8, .layer, false, .rgb, 8, 8, ⟨0, 0⟩, ⟨5, 3⟩, ⟨2, 3⟩, ⟨0, 2⟩, .none, false, false, 3⟩,
    -- 5 BGR233
    ⟨.rgb, 8, .layer, true, .rgb, 8, 8, ⟨0, 0⟩, ⟨0, 3⟩, ⟨3, 3⟩, ⟨6, 2⟩, .none, false, false, 3⟩,
    -- 6 RGB565
    ⟨.rgb, 16, .layer, false, .rgb, 16, 16, ⟨0, 0⟩, ⟨11, 5⟩, ⟨5, 6⟩, ⟨0, 5⟩, .none, false, false, 6⟩,
    -- 7 BGR565
    ⟨.rgb, 16, .layer, true, .rgb, 16, 16, ⟨0, 0⟩, ⟨0, 5⟩, ⟨5, 6⟩, ⟨11, 5⟩, .none, false, false, 6⟩ ]

def catalogRows8 : List PixelFormat :=
  [ -- 8 XRGB8888
    ⟨.rgb, 24, .layer, false, .rgb, 24, 32, ⟨0, 0⟩, ⟨16, 8⟩, ⟨8, 8⟩, ⟨0, 8⟩, .none, false, false, 8⟩,
    -- 9 XBGR8888
    ⟨.rgb, 24, .layer, true, .rgb, 24, 32, ⟨0, 0⟩, ⟨0, 8⟩, ⟨8, 8⟩, ⟨16, 8⟩, .none, false, false, 8⟩,
    -- 10 XRGB2101010
    ⟨.rgb, 30, .layer, false, .rgb, 30, 32, ⟨0, 0⟩, ⟨20, 10⟩, ⟨10, 10⟩, ⟨0, 10⟩, .none, false, false, 10⟩,
    -- 11 XBGR2101010
    ⟨.rgb, 30, .layer, true, .rgb, 30, 32, ⟨0, 0⟩, ⟨0, 10⟩, ⟨10, 10⟩, ⟨20, 10⟩, .none, false, false, 10⟩,
    -- 12 ARGB8888
    ⟨.rgb, 24, .pixel, false, .rgb, 32, 32, ⟨24, 8⟩, ⟨16, 8⟩, ⟨8, 8⟩, ⟨0, 8⟩, .none, false, false, 0⟩,
    -- 13 ABGR8888
    ⟨.rgb, 24, .pixel, true, .rgb, 32, 32, ⟨24, 8⟩, ⟨0, 8⟩, ⟨8, 8⟩, ⟨16, 8⟩, .none, false, false, 0⟩,
    -- 14 YUYV
    ⟨.yuv, 16, .layer, false, .yuv, 16, 16, ⟨0, 0⟩, ⟨16, 8⟩, ⟨8, 8⟩, ⟨0, 8⟩, .none, false, true, 8⟩,
    -- 15 UYVY
    ⟨.yuv, 16, .layer, true, .yuv, 16, 16, ⟨0, 0⟩, ⟨0, 8⟩, ⟨8, 8⟩, ⟨16, 8⟩, .none, false, true, 8⟩ ]

def catalogRows16 : List PixelFormat :=
  [ -- 16 YUYV10
    ⟨.yuv, 20, .layer, false, .yuv, 20, 32, ⟨0, 0⟩, ⟨20, 10⟩, ⟨10, 10⟩, ⟨0, 10⟩, .none, false, true, 10⟩,
    -- 17 UYVY10
    ⟨.yuv, 20, .layer, true, .yuv, 20, 32, ⟨0, 0⟩, ⟨0, 10⟩, ⟨10, 10⟩, ⟨20, 10⟩, .none, false, true, 10⟩,
    -- 18 XYUV8888
    ⟨.yuv, 24, .layer, false, .yuv, 24, 32, ⟨0, 0⟩, ⟨16, 8⟩, ⟨8, 8⟩, ⟨0, 8⟩, .none, false, false, 8⟩,
    -- 19 XVUY8888
    ⟨.yuv, 24, .layer, true, .yuv, 24, 32, ⟨0, 0⟩, ⟨0, 8⟩, ⟨8, 8⟩, ⟨16, 8⟩, .none, false, false, 8⟩,
    -- 20 XYUV2101010
    ⟨.yuv, 30, .layer, false, .yuv, 30, 32, ⟨0, 0⟩, ⟨20, 10⟩, ⟨10, 10⟩, ⟨0, 10⟩, .none, false, false, 10⟩,
    -- 21 XVUY2101010
    ⟨.yuv, 30, .layer, true, .yuv, 30, 32, ⟨0, 0⟩, ⟨0, 10⟩, ⟨10, 10⟩, ⟨20, 10⟩, .none, false, false, 10⟩,
    -- 22 AYUV8888
    ⟨.yuv, 24, .pixel, false, .yuv, 32, 32, ⟨24, 8⟩, ⟨16, 8⟩, ⟨8, 8⟩, ⟨0, 8⟩, .none, false, false, 0⟩,
    -- 23 AVUY8888
    ⟨.yuv, 24, .pixel, true, .yuv, 32, 32, ⟨24, 8⟩, ⟨0, 8⟩, ⟨8, 8⟩, ⟨16, 8⟩, .none, false, false, 0⟩ ]

/-- `CATALOG`, ids 0 to 23 (R81). -/
def defaultCatalog : Vector PixelFormat 24 :=
  ⟨(catalogRows0 ++ catalogRows8 ++ catalogRows16).toArray, rfl⟩

/-! ### The default coefficient records (R101, R104) -/

/-- A signed constant as the 32-bit two's-complement parameter it is (R100, R103). -/
def coeff (v : Int) : Word := BitVec.ofInt 32 v

def defaultFwdStandard : FwdCoeffs where
  cy := coeff 0
  cyr := coeff 29900
  cyg := coeff 58700
  cyb := coeff 11400
  cur := coeff 16874
  cug := coeff 33126
  cub := coeff 50000
  cvr := coeff 50000
  cvg := coeff 41869
  cvb := coeff 8131

def defaultFwdItu656 : FwdCoeffs where
  cy := coeff 1600000
  cyr := coeff 25679
  cyg := coeff 50413
  cyb := coeff 9791
  cur := coeff 14822
  cug := coeff 29099
  cub := coeff 43922
  cvr := coeff 43922
  cvg := coeff 36779
  cvb := coeff 7143

def defaultRevStandard : RevCoeffs where
  norm := coeff 100000
  oy := coeff 0
  ou := coeff 128
  ov := coeff 128
  red := ⟨coeff 100000, coeff 0, coeff 140200, coeff 0⟩
  green := ⟨coeff 100000, coeff (-34414), coeff (-71414), coeff 0⟩
  blue := ⟨coeff 100000, coeff 177200, coeff 0, coeff 0⟩

def defaultRevItu656 : RevCoeffs where
  norm := coeff 100000
  oy := coeff 16
  ou := coeff 128
  ov := coeff 128
  red := ⟨coeff 116438, coeff 0, coeff 159603, coeff 0⟩
  green := ⟨coeff 116438, coeff (-39176), coeff (-81297), coeff 0⟩
  blue := ⟨coeff 116438, coeff 201723, coeff 0, coeff 0⟩

/-- The default device: the conventions of 95_test_vectors with the defaults of R4 (assumption log 1). -/
def defaultParams : Params where
  profile := .standard
  gen := .offsetRegisters
  nlayers := 2
  fwdStandard := defaultFwdStandard
  fwdItu656 := defaultFwdItu656
  revStandard := defaultRevStandard
  revItu656 := defaultRevItu656
  catalog := defaultCatalog
  maxw := 2048
  maxh := 2048
  collab := .shadow

/-! ### Access to the parameters -/

/-- `FWD[PROFILE]` (R100). -/
def fwdOf (p : Params) : FwdCoeffs :=
  match p.profile with
  | .standard => p.fwdStandard
  | .itu656 => p.fwdItu656

/-- `REV[PROFILE]` (R103). -/
def revOf (p : Params) : RevCoeffs :=
  match p.profile with
  | .standard => p.revStandard
  | .itu656 => p.revItu656

/-- `CATALOG[f]` for a `fmt` field; none when `f >= 24` (R62). -/
def formatOf (p : Params) (f : BitVec 5) : Option PixelFormat :=
  if h : f.toNat < 24 then some p.catalog[f.toNat] else none

/-- What the spec asks of a parameter record: 1 to 16 layers, maxima of at most 65535 (D29), positive
normalisation constants (R103), and the invariants of the catalog (R80, R82). -/
def paramsWf (p : Params) : Bool :=
  decide (1 ≤ p.nlayers) && decide (p.nlayers ≤ 16) && decide (p.maxw ≤ 65535) && decide (p.maxh ≤ 65535)
  && decide (0 < p.revStandard.norm.toInt) && decide (0 < p.revItu656.norm.toInt)
  && p.catalog.toList.all formatWf && catalogUnique p.catalog.toList

/-- `CONFIG`: `PROFILE` in bit 0, `GEN` in bit 1, `NLAYERS - 1` in bits 7:4, the rest 0 (R15). -/
def configWord (p : Params) : Word :=
  BitVec.ofNat 32 (p.profile.code ||| p.gen.code <<< 1 ||| ((p.nlayers - 1) % 16) <<< 4)

end Machine

end Sys2Proof
end

