-- ==== Sys2Proof/Syntax.lean ====
section
/-! DEFINITION. The thirteen operations of the command port (spec 30_encoding R61, opcode_table.json). -/

namespace Sys2Proof

/-- One constructor per row of the opcode table. `layer` is `CMD[23:20]`, `fmt` is `CMD[4:0]` (R60); every
other operand is in `A0..A7` (R64). A `fmt` of 24 to 31 is a legal word whose operation fails with
`UnsupportedFormat` (R62). -/
inductive Instr where
  | fmtres
  | lcfg (layer : BitVec 4)
  | rgb2yuv
  | yuv2rgb
  | alpha2hw (fmt : BitVec 5)
  | hw2alpha (fmt : BitVec 5)
  | pxenc (fmt : BitVec 5)
  | pxdec (fmt : BitVec 5)
  | clutenc (fmt : BitVec 5)
  | geoset (layer : BitVec 4)
  | geoget (layer : BitVec 4)
  | regrd (layer : BitVec 4)
  | regwr (layer : BitVec 4)
  deriving DecidableEq, Repr

/-- The `layer` field of an operation that has one (R60). -/
def Instr.layer? : Instr → Option (BitVec 4)
  | .fmtres => none
  | .lcfg l => some l
  | .rgb2yuv => none
  | .yuv2rgb => none
  | .alpha2hw _ => none
  | .hw2alpha _ => none
  | .pxenc _ => none
  | .pxdec _ => none
  | .clutenc _ => none
  | .geoset l => some l
  | .geoget l => some l
  | .regrd l => some l
  | .regwr l => some l

/-- The `fmt` field of an operation that has one (R60). -/
def Instr.fmt? : Instr → Option (BitVec 5)
  | .fmtres => none
  | .lcfg _ => none
  | .rgb2yuv => none
  | .yuv2rgb => none
  | .alpha2hw f => some f
  | .hw2alpha f => some f
  | .pxenc f => some f
  | .pxdec f => some f
  | .clutenc f => some f
  | .geoset _ => none
  | .geoget _ => none
  | .regrd _ => none
  | .regwr _ => none

end Sys2Proof
end

