-- ==== Sys2Proof/WellFormed.lean ====
section
/-! DEFINITION. Which operations a block with `nlayers` layers has: the one check that decoding makes beyond
the opcode rows (spec 30_encoding R62, R63). -/

namespace Sys2Proof

/-- The `layer` field, where there is one, names a layer of the block; `fmt` is never checked here, since a
`fmt` of 24 or more is an operation that fails, not an illegal command (R62). -/
def Instr.wf (nlayers : Nat) (i : Instr) : Bool :=
  match i.layer? with
  | none => true
  | some l => decide (l.toNat < nlayers)

end Sys2Proof
end

