-- ==== Sys2Proof/Decode.lean ====
section
/-! DEFINITION. Decoding of the 32-bit command word (spec 30_encoding R60 to R63), total and rejecting by
name, and the encoder written from the same table. -/

namespace Sys2Proof

/-- Why a command word is illegal (R63); both give `IllegalCommand`. -/
inductive DecodeError where
  /-- the word matches no row of the opcode map (R172 step 1) -/
  | noRow
  /-- the matched row has a `layer` field and it is `NLAYERS` or more (R172 step 2) -/
  | layerOutOfRange
  deriving DecidableEq, Repr

/-- One row of the opcode map: a word `w` selects it when `w & mask == match` (R61). -/
structure OpcodeRow where
  pattern : Word
  mask : Word
  /-- the operation, from the `layer` and the `fmt` field -/
  build : BitVec 4 → BitVec 5 → Instr

/-- The opcode map of R61. -/
def opcodeTable : List OpcodeRow :=
  [ ⟨0x01000000, 0xFFFFFFFF, fun _ _ => .fmtres⟩,
    ⟨0x02000000, 0xFF0FFFFF, fun l _ => .lcfg l⟩,
    ⟨0x10000000, 0xFFFFFFFF, fun _ _ => .rgb2yuv⟩,
    ⟨0x11000000, 0xFFFFFFFF, fun _ _ => .yuv2rgb⟩,
    ⟨0x18000000, 0xFFFFFFE0, fun _ f => .alpha2hw f⟩,
    ⟨0x19000000, 0xFFFFFFE0, fun _ f => .hw2alpha f⟩,
    ⟨0x20000000, 0xFFFFFFE0, fun _ f => .pxenc f⟩,
    ⟨0x21000000, 0xFFFFFFE0, fun _ f => .pxdec f⟩,
    ⟨0x22000000, 0xFFFFFFE0, fun _ f => .clutenc f⟩,
    ⟨0x30000000, 0xFF0FFFFF, fun l _ => .geoset l⟩,
    ⟨0x31000000, 0xFF0FFFFF, fun l _ => .geoget l⟩,
    ⟨0x38000000, 0xFF0FFFFF, fun l _ => .regrd l⟩,
    ⟨0x39000000, 0xFF0FFFFF, fun l _ => .regwr l⟩ ]

/-- `CMD[31:24]` (R60). -/
def opField (w : Word) : BitVec 8 := w.extractLsb' 24 8

/-- `CMD[23:20]` (R60). -/
def layerField (w : Word) : BitVec 4 := w.extractLsb' 20 4

/-- `CMD[19:5]`, reserved (R60). -/
def zeroField (w : Word) : BitVec 15 := w.extractLsb' 5 15

/-- `CMD[4:0]` (R60). -/
def fmtField (w : Word) : BitVec 5 := w.extractLsb' 0 5

/-- The word selects the row (R61). -/
def OpcodeRow.selects (row : OpcodeRow) (w : Word) : Bool := w &&& row.mask == row.pattern

/-- The operation of the row that the word selects (R62). -/
def selectRow (w : Word) : Option Instr :=
  (opcodeTable.find? fun row => row.selects w).map fun row => row.build (layerField w) (fmtField w)

/-- Decoding for a block of `nlayers` layers (R62, R63). -/
def decode (nlayers : Nat) (w : Word) : Except DecodeError Instr :=
  match selectRow w with
  | none => .error .noRow
  | some i => if i.wf nlayers then .ok i else .error .layerOutOfRange

/-- The command word with the given fields and a zero `zero` field (R60, R71). -/
def commandWord (op : BitVec 8) (layer : BitVec 4) (fmt : BitVec 5) : Word :=
  op.zeroExtend 32 <<< 24 ||| layer.zeroExtend 32 <<< 20 ||| fmt.zeroExtend 32

/-- The command word of an operation (R61, R71). -/
def encode : Instr → Word
  | .fmtres => commandWord 0x01 0 0
  | .lcfg l => commandWord 0x02 l 0
  | .rgb2yuv => commandWord 0x10 0 0
  | .yuv2rgb => commandWord 0x11 0 0
  | .alpha2hw f => commandWord 0x18 0 f
  | .hw2alpha f => commandWord 0x19 0 f
  | .pxenc f => commandWord 0x20 0 f
  | .pxdec f => commandWord 0x21 0 f
  | .clutenc f => commandWord 0x22 0 f
  | .geoset l => commandWord 0x30 l 0
  | .geoget l => commandWord 0x31 l 0
  | .regrd l => commandWord 0x38 l 0
  | .regwr l => commandWord 0x39 l 0

/-- A command word from its number, the bits at and above `nbits` being 0. -/
def tableWord (nbits w : Nat) : Word := BitVec.ofNat 32 (w % 2 ^ nbits)

/-- What the decoder of the default device reads from the table's word; the command is one 32-bit word, so
there is no byte order to apply (R43, R60; assumption log 14). -/
def decodeTableWord (nbits w : Nat) : Option Instr :=
  match decode Machine.defaultParams.nlayers (tableWord nbits w) with
  | .ok i => some i
  | .error _ => none

end Sys2Proof
end

