-- ==== Sys2Proof/Machine/State.lean ====
section
/-! DEFINITION. The state of one device instance with its host and its collaborator (spec 10_state R10,
60_exceptions R183), plain data, and the state right after reset (R24, R190). -/

namespace Sys2Proof.Machine

/-- The error kinds of a command (60_exceptions R171); code 0 is success and no kind. -/
inductive ErrorKind where
  | unsupportedFormat
  | alphaNotSupported
  | invalidPosition
  | invalidSize
  | indexOutOfRange
  | registerPermissionDenied
  | layerNotConfigured
  | illegalCommand
  deriving DecidableEq, Repr

/-- `LayerGeometry`, six unsigned 32-bit values (10_state R17, R18). -/
structure Geometry where
  x : Word
  y : Word
  w : Word
  h : Word
  xoff : Word
  yoff : Word
  deriving DecidableEq, Repr

/-- The layer record (10_state R17). `fmt` is the 5-bit id of a catalog row, legal values 0..23. -/
structure LayerRecord where
  valid : Bool
  fmt : Fin 24
  visw : BitVec 16
  vish : BitVec 16
  virtw : BitVec 16
  virth : BitVec 16
  fbbase : Word
  geo : Geometry
  deriving DecidableEq, Repr

/-- The ten register slots of a layer, in slot order 0 to 9 (20_memory R44). -/
inductive Slot where
  | hoff | voff | hpos | vpos | hsize | vsize | alpha | ctrl | transp | addr
  deriving DecidableEq, Repr

/-- One collaborator access, as the event history records it (20_memory R54). -/
inductive Event where
  | regWrite (layer : BitVec 4) (slot : Slot) (value : Word)
  | regRead (layer : BitVec 4) (slot : Slot) (value : Word)
  deriving DecidableEq, Repr

/-- One thing the host does next (30_encoding R71, R72; 70_reset R190; assumption log 4). `width` is in bits,
`offset` is a byte offset in the host register space. -/
inductive HostAction where
  | write (width : Nat) (offset : Nat) (value : Word)
  | read (width : Nat) (offset : Nat)
  /-- the write half of `MOV Ai, Rj`: writes the value the last read returned -/
  | writeBack (width : Nat) (offset : Nat)
  /-- "if STATUS != 0 stop" of SETALPHA: the host reads `STATUS` and, if it is not 0, gives up its next
  `count` actions -/
  | stopOnError (count : Nat)
  /-- a reset of the block between two host accesses -/
  | reset
  deriving DecidableEq, Repr

/-- Words by key, keys strictly rising; what is not listed was never written (20_memory R47). It holds the
shadow collaborator's array `HW[l][s]`, the only storage of this hardware that is addressed sparsely. -/
abbrev Memory := List (Nat × Word)

/-- The whole state (INVENTORY.md, State). -/
@[ext]
structure State where
  /-- the immutable parameters of this instance (00_scope R4, R183) -/
  params : Params
  /-- `CMD` (R13) -/
  cmd : Word
  /-- `STATUS`, `ERR` in bits 3:0 (R14) -/
  status : Word
  /-- `A0..A7` (R11) -/
  a : Vector Word 8
  /-- `R0..R7` (R11) -/
  r : Vector Word 8
  /-- `EBUF` (R16) -/
  ebuf : Vector Word 256
  /-- `CBUF` (R16) -/
  cbuf : Vector Word 256
  /-- the layer records; those at `NLAYERS` and above do not exist and stay unused (R17; log 6) -/
  layers : Vector LayerRecord 16
  /-- the shadow collaborator's array, keyed by `10 * layer + slot` (R47) -/
  hw : Memory
  /-- the event history, oldest first (R54) -/
  events : List Event
  /-- the host's actions still to be served, oldest first (log 4) -/
  pending : List HostAction
  /-- what the last host read returned (log 4) -/
  readData : Word
  /-- answers the outside world gives to reads the spec leaves open, next one first (log 3) -/
  answers : List Word
  /-- how many free values were taken from `Config.freeWord` (log 3) -/
  freeCount : Nat
  deriving DecidableEq, Repr

/-- The block has no fault: an error is a code in `STATUS`, "never exceptions-as-control-flow and never
process termination" (60_exceptions R170, R174). -/
inductive Fault
  deriving DecidableEq, Repr

/-- Why a step is refused. -/
inductive Refusal where
  /-- raised by `exec` for an operation without a meaning; no arm does so (safe) -/
  | notModelled (mnemonic : String)
  /-- raised by a host access that is not 32 bits wide: outside the contract (R42, 93 U11; safe) -/
  | accessWidth (width : Nat)
  /-- raised by a host access at an offset that is no multiple of 4: outside the contract (R42, 93 U11; safe) -/
  | misalignedAccess (offset : Nat)
  /-- raised by a host access at 0xC00 or above: not an access to this block (R53, 93 U11; safe) -/
  | outsideBlock (offset : Nat)
  deriving DecidableEq, Repr

/-- What reset leaves unspecified (R24): every register but `CMD`, `STATUS` and the `VALID` bits. -/
structure ResetDraw where
  a : Vector Word 8
  r : Vector Word 8
  ebuf : Vector Word 256
  cbuf : Vector Word 256
  layers : Vector LayerRecord 16
  deriving DecidableEq, Repr

/-- The geometry and the record whose every field is 0 (assumption log 2). -/
def zeroGeometry : Geometry := ⟨0, 0, 0, 0, 0, 0⟩

def zeroRecord : LayerRecord := ⟨false, 0, 0, 0, 0, 0, 0, zeroGeometry⟩

/-- DESIGN CHOICE (assumption log 2): the draw of `State.reset`, every unspecified register 0. -/
def ResetDraw.zero : ResetDraw where
  a := Vector.replicate 8 0
  r := Vector.replicate 8 0
  ebuf := Vector.replicate 256 0
  cbuf := Vector.replicate 256 0
  layers := Vector.replicate 16 zeroRecord

/-- The block with parameters `p` after power-on, the unspecified registers holding `d` (R24, R190); nothing
is pending and nothing was recorded. -/
def State.powerOn (p : Params) (d : ResetDraw) : State where
  params := p
  cmd := 0
  status := 0
  a := d.a
  r := d.r
  ebuf := d.ebuf
  cbuf := d.cbuf
  layers := d.layers.map fun L => { L with valid := false }
  hw := []
  events := []
  pending := []
  readData := 0
  answers := []
  freeCount := 0

/-- The machine right after reset: `CMD = 0`, `STATUS = 0`, every `VALID = 0` (R24). -/
def State.reset : State := State.powerOn defaultParams ResetDraw.zero

end Sys2Proof.Machine
end

