-- ==== Sys2Proof/Machine/Flags.lean ====
section
/-! DEFINITION. The only flag, `STATUS.ERR` (spec 10_state R14, R23; 60_exceptions R171): the code of each
error kind and the `STATUS` word that holds it. -/

namespace Sys2Proof.Machine

/-- The numeric code of an error kind (R171). -/
def ErrorKind.code : ErrorKind → Nat
  | .unsupportedFormat => 1
  | .alphaNotSupported => 2
  | .invalidPosition => 3
  | .invalidSize => 4
  | .indexOutOfRange => 5
  | .registerPermissionDenied => 6
  | .layerNotConfigured => 7
  | .illegalCommand => 8

/-- `STATUS` after an error: the code in `STATUS[3:0]`, 0 above (R14). -/
def statusOf (e : ErrorKind) : Word := BitVec.ofNat 32 e.code

/-- `STATUS` after success (R171 code 0). -/
def statusOk : Word := 0

end Sys2Proof.Machine
end

