-- ==== Sys2Proof/Machine/Memory.lean ====
section
/-! DEFINITION. The shadow collaborator's array `HW[l][s]` (spec 20_memory R44, R47) as a sparse memory in
canonical form: keys strictly rising, an unlisted key being a slot that nothing wrote. -/

namespace Sys2Proof.Machine

/-- The slot number (R44). -/
def Slot.number : Slot → Nat
  | .hoff => 0
  | .voff => 1
  | .hpos => 2
  | .vpos => 3
  | .hsize => 4
  | .vsize => 5
  | .alpha => 6
  | .ctrl => 7
  | .transp => 8
  | .addr => 9

/-- The slot with a number below `LAYER_NREGS` (R44, R160). -/
def Slot.ofNumber? : Nat → Option Slot
  | 0 => some .hoff
  | 1 => some .voff
  | 2 => some .hpos
  | 3 => some .vpos
  | 4 => some .hsize
  | 5 => some .vsize
  | 6 => some .alpha
  | 7 => some .ctrl
  | 8 => some .transp
  | 9 => some .addr
  | _ => none

/-- The key of slot `s` of layer `l`: `10 * layer + slot`. It is no bus offset (R45). -/
def slotKey (l : BitVec 4) (s : Slot) : Nat := Config.layerNregs * l.toNat + s.number

/-- The word last written at a key, if one was. -/
def Memory.read (m : Memory) (k : Nat) : Option Word :=
  match m with
  | [] => none
  | (j, v) :: rest => if k = j then some v else Memory.read rest k

/-- `m` with the word at `k` written, keys kept in rising order. -/
def Memory.write (m : Memory) (k : Nat) (v : Word) : Memory :=
  match m with
  | [] => [(k, v)]
  | (j, u) :: rest =>
    if k < j then (k, v) :: (j, u) :: rest
    else if k = j then (k, v) :: rest
    else (j, u) :: Memory.write rest k v

/-- The canonical form: keys strictly rising. Equal contents are then equal lists. -/
def Memory.wf (m : Memory) : Bool := decide (m.Pairwise fun p q => p.1 < q.1)

end Sys2Proof.Machine
end

