-- ==== Sys2Proof/Machine/Operands.lean ====
section
/-! DEFINITION. How operands and results are assembled (spec 00_scope R6; 30_encoding R64, R65, R67, R68). -/

namespace Sys2Proof.Machine

/-- `v[hi:lo]` read as an unsigned number (R6). -/
def bits (hi lo : Nat) (v : Word) : Nat := v.toNat >>> lo % 2 ^ (hi + 1 - lo)

/-- The low `n` bits of a word, `v[n-1:0]` (R6, R65 (c)). -/
def lowBits (n : Nat) (v : Word) : Nat := v.toNat % 2 ^ n

/-- A number narrowed to a register, `mod 2^32` (R6). -/
def toWord (n : Nat) : Word := BitVec.ofNat 32 n

/-- `A[i]` (R7, R11): a whole-register operand, every bit of it significant (R65 (a)). -/
def State.operand (s : State) (i : Fin 8) : Word := s.a[i]

/-- An 8-bit converter operand, `A[i][7:0]` (R65 (c)). -/
def State.operand8 (s : State) (i : Fin 8) : Nat := bits 7 0 (s.operand i)

/-- The low half of a packed operand, `A[i][15:0]` (R65 (b)). -/
def lowHalf (v : Word) : BitVec 16 := v.extractLsb' 0 16

/-- The high half of a packed operand, `A[i][31:16]` (R65 (b)). -/
def highHalf (v : Word) : BitVec 16 := v.extractLsb' 16 16

/-- Four channel values, channel 0 (transparency) to channel 3 (R11). -/
structure Channels where
  c0 : Nat
  c1 : Nat
  c2 : Nat
  c3 : Nat
  deriving DecidableEq, Repr

/-- The channel operands of PXENC: the whole of `A0..A3` (R65 (d)). -/
def State.channelOperands (s : State) : Channels :=
  ⟨(s.operand 0).toNat, (s.operand 1).toNat, (s.operand 2).toNat, (s.operand 3).toNat⟩

/-- One logical CLUT entry, four bytes from the top (R67). -/
def entryChannels (e : Word) : Channels := ⟨bits 31 24 e, bits 23 16 e, bits 15 8 e, bits 7 0 e⟩

/-- The requested geometry of GEOSET, `A0..A5` (R64). -/
def State.geometryOperands (s : State) : Geometry :=
  ⟨s.operand 0, s.operand 1, s.operand 2, s.operand 3, s.operand 4, s.operand 5⟩

/-- A channel field as FMTRES returns it: `offset` in bits 7:0, `length` in bits 15:8 (R68). -/
def fieldImage (c : ChannelField) : Word := toWord (c.offset ||| c.length <<< 8)

/-- The attributes word of FMTRES (R68). -/
def attributesImage (f : PixelFormat) : Word :=
  toWord (f.cls.code ||| f.clutVariant.code <<< 2 ||| swapCode f.swapped <<< 4 ||| f.is422.toNat <<< 5
    ||| f.conv.toNat <<< 6 ||| f.tm.code <<< 8 ||| f.alphaBits <<< 12 ||| bytesPerPixel f <<< 16)

end Sys2Proof.Machine
end

