-- ==== Sys2Proof/Machine/Ops.lean ====
section
/-! DEFINITION. The named operations every meaning is built from: register, buffer and record writes, the
end of a command with an error or a success (spec 60_exceptions R170, R173), the shared checks (R172), free
values, the collaborator (20_memory R46, R47, R54) and reset (10_state R24, 70_reset R190). -/

namespace Sys2Proof.Machine

/-! ### Writes of one piece of state -/

def State.setCmd (s : State) (w : Word) : State := { s with cmd := w }

def State.setStatus (s : State) (w : Word) : State := { s with status := w }

/-- Host write of `Ai` (R11). -/
def State.setOperand (s : State) (i : Fin 8) (v : Word) : State := { s with a := s.a.set i v }

/-- `R[i] <- v` (R7, R11). -/
def State.setResult (s : State) (i : Fin 8) (v : Word) : State := { s with r := s.r.set i v }

/-- Host write of `EBUF[i]` (R16). -/
def State.setEntry (s : State) (i : Fin 256) (v : Word) : State := { s with ebuf := s.ebuf.set i v }

/-- `CBUF` replaced (R16). -/
def State.setClut (s : State) (c : Vector Word 256) : State := { s with cbuf := c }

/-- Layer record `l` replaced (R17). -/
def State.setLayer (s : State) (l : BitVec 4) (L : LayerRecord) : State :=
  { s with layers := s.layers.set l.toNat L l.isLt }

def State.setPending (s : State) (p : List HostAction) : State := { s with pending := p }

def State.setReadData (s : State) (v : Word) : State := { s with readData := v }

/-- Layer record `l` (R17). -/
def State.layer (s : State) (l : BitVec 4) : LayerRecord := s.layers[l.toNat]'l.isLt

/-! ### The end of a command (R170, R173) -/

/-- `raise E`: `STATUS <- code(E)` and nothing else changes. This is the one error entry of the hardware; it
saves nothing and goes nowhere, and there is no return from it (R173, R174, R178). -/
def State.raise (s : State) (e : ErrorKind) : State := s.setStatus (statusOf e)

/-- `STATUS <- 0`, the last act of a successful operation. -/
def State.complete (s : State) : State := s.setStatus statusOk

/-- A command ends: with an error nothing but `STATUS` changes, otherwise the effects stand and `STATUS` is
0. Every operation's checks come before its first effect (R173). -/
def finish (s : State) (effects : Except ErrorKind State) : Host.Outcome State Fault Refusal :=
  match effects with
  | .error e => .next (s.raise e)
  | .ok t => .next t.complete

/-! ### The checks shared by several operations, in the order of R172 -/

/-- Step 2: the layer exists. -/
def checkLayer (s : State) (l : BitVec 4) : Except ErrorKind Unit :=
  if l.toNat < s.params.nlayers then .ok () else .error .illegalCommand

/-- Step 3: the format exists; its catalog row. -/
def checkFormat (s : State) (f : BitVec 5) : Except ErrorKind PixelFormat :=
  match formatOf s.params f with
  | none => .error .unsupportedFormat
  | some F => .ok F

/-- Step 4: the layer exists and is configured; its record. -/
def checkConfigured (s : State) (l : BitVec 4) : Except ErrorKind LayerRecord :=
  match checkLayer s l with
  | .error e => .error e
  | .ok () => if (s.layer l).valid then .ok (s.layer l) else .error .layerNotConfigured

/-- The lookup of FMTRES and LCFG over `A0..A3` (R83, R84). -/
def checkRequest (s : State) : Except ErrorKind (Fin 24) :=
  match resolve s.params.catalog (s.operand 0) (s.operand 1) (s.operand 2) (s.operand 3) with
  | none => .error .unsupportedFormat
  | some f => .ok f

/-- `checkSlot(s)`: all 32 bits of the slot number count (R160). -/
def checkSlot (v : Word) : Except ErrorKind Slot :=
  match Slot.ofNumber? v.toNat with
  | none => .error .registerPermissionDenied
  | some t => .ok t

/-! ### Free values (assumption log 3) -/

/-- The next value that the spec leaves unspecified, and the state after taking it. -/
def State.draw (s : State) : Word × State :=
  match s.answers with
  | v :: rest => (v, { s with answers := rest })
  | [] => (Config.freeWord s.freeCount, { s with freeCount := s.freeCount + 1 })

/-! ### The collaborator (R46, R47, R54) -/

/-- `RegWrite(l, s, v)`: recorded in the history; the shadow policy stores the word. -/
def State.regWrite (s : State) (l : BitVec 4) (t : Slot) (v : Word) : State :=
  { s with
    hw := match s.params.collab with
      | .shadow => s.hw.write (slotKey l t) v
      | .oracle => s.hw
    events := s.events ++ [.regWrite l t v] }

/-- The collaborator's answer: under the shadow policy the last word written there, otherwise unspecified. -/
def State.answer (s : State) (l : BitVec 4) (t : Slot) : Word × State :=
  match s.params.collab with
  | .oracle => s.draw
  | .shadow =>
    match s.hw.read (slotKey l t) with
    | some v => (v, s)
    | none => s.draw

/-- `RegRead(l, s)`: the answer, and the state with the access recorded. -/
def State.regRead (s : State) (l : BitVec 4) (t : Slot) : Word × State :=
  ((s.answer l t).1,
    { (s.answer l t).2 with events := (s.answer l t).2.events ++ [.regRead l t (s.answer l t).1] })

/-- Several `RegWrite`s to one layer, in list order. -/
def State.regWrites (s : State) (l : BitVec 4) : List (Slot × Word) → State
  | [] => s
  | (t, v) :: rest => (s.regWrite l t v).regWrites l rest

/-! ### Reset (R24, R190) -/

/-- Reset of the block: `CMD = 0`, `STATUS = 0`, every `VALID = 0`, the other registers as the draw says;
parameters, collaborator, history and host are untouched. -/
def State.resetBlock (s : State) (d : ResetDraw) : State :=
  { s with
    cmd := 0
    status := 0
    a := d.a
    r := d.r
    ebuf := d.ebuf
    cbuf := d.cbuf
    layers := d.layers.map fun L => { L with valid := false } }

/-- A layer record of free values; `FMT` is drawn from its legal values. -/
def freeRecord (n : Nat) : LayerRecord where
  valid := false
  fmt := Fin.ofNat 24 (Config.freeWord n).toNat
  visw := lowHalf (Config.freeWord (n + 1))
  vish := lowHalf (Config.freeWord (n + 2))
  virtw := lowHalf (Config.freeWord (n + 3))
  virth := lowHalf (Config.freeWord (n + 4))
  fbbase := Config.freeWord (n + 5)
  geo := ⟨Config.freeWord (n + 6), Config.freeWord (n + 7), Config.freeWord (n + 8),
    Config.freeWord (n + 9), Config.freeWord (n + 10), Config.freeWord (n + 11)⟩

/-- A draw of free values, the `n`-th and following: 8 + 8 + 256 + 256 words and 16 records of 12. -/
def freeDraw (n : Nat) : ResetDraw where
  a := Vector.ofFn fun i => Config.freeWord (n + i)
  r := Vector.ofFn fun i => Config.freeWord (n + 8 + i)
  ebuf := Vector.ofFn fun i => Config.freeWord (n + 16 + i)
  cbuf := Vector.ofFn fun i => Config.freeWord (n + 272 + i)
  layers := Vector.ofFn fun i => freeRecord (n + 528 + 12 * i)

/-- A reset between two host accesses, every unspecified register a free value. -/
def State.resetEvent (s : State) : State :=
  { s.resetBlock (freeDraw s.freeCount) with freeCount := s.freeCount + 720 }

end Sys2Proof.Machine
end

