-- ==== Sys2Proof/Machine/Alpha.lean ====
section
/-! DEFINITION. The unit ALN (spec 42_alpha): ALPHA2HW and HW2ALPHA. -/

namespace Sys2Proof.Machine

/-- `toHw(a, n) = (a * (2^n - 1)) div 1023` (R111). -/
def toHw (a n : Nat) : Nat := a * (2 ^ n - 1) / Config.anorm

/-- The empirical correction: 1 at 6 bits, 0 at every other width (R112, 93 U2). -/
def alphaBias (n : Nat) : Nat := if n = 6 then 1 else 0

/-- `fromHw(r, n) = min(1023, (((r + 1) * 1023) >> n) + bias(n))` (R112). -/
def fromHw (r n : Nat) : Nat := min Config.anorm (((r + 1) * Config.anorm) >>> n + alphaBias n)

/-- The format exists and has a layer alpha, in this order (R113, R172). -/
def checkLayerAlpha (s : State) (f : BitVec 5) : Except ErrorKind PixelFormat := do
  let F ← checkFormat s f
  if layerAlpha F then return F else throw .alphaNotSupported

/-- ALPHA2HW (R113): `A0[9:0]` to a raw alpha. -/
def execAlpha2hw (f : BitVec 5) (s : State) : Host.Outcome State Fault Refusal :=
  finish s do
    let F ← checkLayerAlpha s f
    return s.setResult 0 (toWord (toHw (bits 9 0 (s.operand 0)) F.alphaBits))

/-- HW2ALPHA (R114): the low `alphaBits` bits of `A0` to a normalised alpha. -/
def execHw2alpha (f : BitVec 5) (s : State) : Host.Outcome State Fault Refusal :=
  finish s do
    let F ← checkLayerAlpha s f
    return s.setResult 0 (toWord (fromHw (lowBits F.alphaBits (s.operand 0)) F.alphaBits))

end Sys2Proof.Machine
end

