-- ==== Sys2Proof/Machine/Colorspace.lean ====
section
/-! DEFINITION. The unit CSC (spec 41_colorspace): RGB2YUV and YUV2RGB, exact integer fixed point. -/

namespace Sys2Proof.Machine

/-- `sat8(v)` (R7). -/
def sat8 (v : Int) : Nat := if v < 0 then 0 else if v > 255 then 255 else v.toNat

/-- A colour of three values: `(r, g, b)` or `(y, u, v)`. -/
structure Colour where
  p : Nat
  q : Nat
  t : Nat
  deriving DecidableEq, Repr

/-- `forward(r, g, b)` (R100): ten signed constants, exact sums, one truncating division by `SCALE`. -/
def forward (c : FwdCoeffs) (r g b : Nat) : Colour where
  p := sat8 ((c.cyr.toInt * r + c.cyg.toInt * g + c.cyb.toInt * b + c.cy.toInt).tdiv Config.scale)
  q := sat8 ((-c.cur.toInt * r - c.cug.toInt * g + c.cub.toInt * b + Config.coff).tdiv Config.scale)
  t := sat8 ((c.cvr.toInt * r - c.cvg.toInt * g - c.cvb.toInt * b + Config.coff).tdiv Config.scale)

/-- One output of the reverse direction: `sat8((m·d + k) tdiv norm)` (R103). -/
def reverseRow (c : RevCoeffs) (m : RevRow) (y u v : Nat) : Nat :=
  sat8 ((m.my.toInt * (y - c.oy.toInt) + m.mu.toInt * (u - c.ou.toInt) + m.mv.toInt * (v - c.ov.toInt)
    + m.k.toInt).tdiv c.norm.toInt)

/-- `reverse(y, u, v)` (R103). -/
def reverse (c : RevCoeffs) (y u v : Nat) : Colour where
  p := reverseRow c c.red y u v
  q := reverseRow c c.green y u v
  t := reverseRow c c.blue y u v

/-- The three results of a conversion, `R1..R3` (R64). -/
def State.setColour (s : State) (c : Colour) : State :=
  s |>.setResult 1 (toWord c.p) |>.setResult 2 (toWord c.q) |>.setResult 3 (toWord c.t)

/-- RGB2YUV (R102): no error. -/
def execRgb2yuv (s : State) : Host.Outcome State Fault Refusal :=
  finish s (.ok (s.setColour (forward (fwdOf s.params) (s.operand8 1) (s.operand8 2) (s.operand8 3))))

/-- YUV2RGB (R105): no error. -/
def execYuv2rgb (s : State) : Host.Outcome State Fault Refusal :=
  finish s (.ok (s.setColour (reverse (revOf s.params) (s.operand8 1) (s.operand8 2) (s.operand8 3))))

end Sys2Proof.Machine
end

