-- ==== Sys2Proof/Machine/Codec.lean ====
section
/-! DEFINITION. The unit PXC (spec 43_pixel_codec): PXENC, PXDEC and CLUTENC. -/

namespace Sys2Proof.Machine

/-- One channel in its field: the low `length` bits, shifted to `offset` (R120). -/
def packField (F : ChannelField) (c : Nat) : Nat := (c % 2 ^ F.length) <<< F.offset

/-- `pack(F, c0, c1, c2, c3)` (R120). -/
def pack (F : PixelFormat) (c : Channels) : Nat :=
  packField F.ch0 c.c0 + packField F.ch1 c.c1 + packField F.ch2 c.c2 + packField F.ch3 c.c3

/-- One channel out of its field; an absent channel is 0 (R121). -/
def unpackField (F : ChannelField) (raw : Nat) : Nat := raw >>> F.offset % 2 ^ F.length

/-- `unpack(F, raw)` (R121). -/
def unpack (F : PixelFormat) (raw : Nat) : Channels :=
  ⟨unpackField F.ch0 raw, unpackField F.ch1 raw, unpackField F.ch2 raw, unpackField F.ch3 raw⟩

/-- The bits of one field. -/
def fieldBits (F : ChannelField) : Nat := (2 ^ F.length - 1) <<< F.offset

/-- `fieldmask(F)`, the OR of all fields (R126). -/
def fieldMask (F : PixelFormat) : Nat :=
  fieldBits F.ch0 ||| fieldBits F.ch1 ||| fieldBits F.ch2 ||| fieldBits F.ch3

/-- `prepare`: a row with `conv` stores its colour channels as Y, U, V; transparency is not converted (R125). -/
def prepare (p : Params) (F : PixelFormat) (c : Channels) : Channels :=
  if F.conv then
    let k := forward (fwdOf p) (c.c1 % 256) (c.c2 % 256) (c.c3 % 256)
    ⟨c.c0, k.p, k.q, k.t⟩
  else c

/-- The `RawColorWord` of four channels (R69, R122). -/
def encodeWord (p : Params) (F : PixelFormat) (c : Channels) : Word := toWord (pack F (prepare p F c))

/-- PXENC (R122). -/
def execPxenc (f : BitVec 5) (s : State) : Host.Outcome State Fault Refusal :=
  finish s do
    let F ← checkFormat s f
    return s.setResult 0 (encodeWord s.params F s.channelOperands)

/-- PXDEC (R123): all four results are written, an absent channel as 0. -/
def execPxdec (f : BitVec 5) (s : State) : Host.Outcome State Fault Refusal :=
  finish s do
    let F ← checkFormat s f
    let c := unpack F (s.operand 0).toNat
    return s
      |>.setResult 0 (toWord c.c0)
      |>.setResult 1 (toWord c.c1)
      |>.setResult 2 (toWord c.c2)
      |>.setResult 3 (toWord c.c3)

/-- The first `n` entries of the batch written to `CBUF[start..]`, in increasing order (R124). -/
def clutFill (p : Params) (F : PixelFormat) (ebuf : Vector Word 256) (start : Nat) :
    Nat → Vector Word 256 → Vector Word 256
  | 0, c => c
  | n + 1, c =>
    (clutFill p F ebuf start n c).setIfInBounds (start + n)
      (encodeWord p F (entryChannels (ebuf[n]?.getD 0)))

/-- The index bound of CLUTENC, an exact sum (R124). -/
def checkRange (start count : Nat) : Except ErrorKind Unit :=
  if start + count > Config.clutSize then .error .indexOutOfRange else .ok ()

/-- CLUTENC (R124). -/
def execClutenc (f : BitVec 5) (s : State) : Host.Outcome State Fault Refusal :=
  finish s do
    let F ← checkFormat s f
    let start := (s.operand 0).toNat
    let count := (s.operand 1).toNat
    checkRange start count
    return s.setClut (clutFill s.params F s.ebuf start count s.cbuf)

end Sys2Proof.Machine
end

