-- ==== Sys2Proof/Machine/Format.lean ====
section
/-! DEFINITION. The unit FMT (spec 40_catalog): FMTRES and LCFG. -/

namespace Sys2Proof.Machine

/-- FMTRES (R84): the descriptor of the row that `A0..A3` name goes to `R0..R6`. -/
def execFmtres (s : State) : Host.Outcome State Fault Refusal :=
  finish s do
    let id ← checkRequest s
    let f := s.params.catalog[id]
    return s
      |>.setResult 0 (toWord id)
      |>.setResult 1 (toWord f.bpp)
      |>.setResult 2 (fieldImage f.ch0)
      |>.setResult 3 (fieldImage f.ch1)
      |>.setResult 4 (fieldImage f.ch2)
      |>.setResult 5 (fieldImage f.ch3)
      |>.setResult 6 (attributesImage f)

/-- The size checks of LCFG, in their order (R86, R172). -/
def checkSizes (p : Params) (visw vish virtw virth : BitVec 16) : Except ErrorKind Unit :=
  if visw = 0 ∨ vish = 0 then .error .invalidSize
  else if visw.toNat > p.maxw ∨ vish.toNat > p.maxh then .error .invalidSize
  else if virtw.toNat < visw.toNat ∨ virth.toNat < vish.toNat then .error .invalidSize
  else .ok ()

/-- The record LCFG leaves: valid, the initial geometry the whole visible area at position 0, 0 (R86). -/
def configuredRecord (id : Fin 24) (visw vish virtw virth : BitVec 16) (fbbase : Word) : LayerRecord where
  valid := true
  fmt := id
  visw := visw
  vish := vish
  virtw := virtw
  virth := virth
  fbbase := fbbase
  geo := ⟨0, 0, visw.zeroExtend 32, vish.zeroExtend 32, 0, 0⟩

/-- LCFG (R86): a new layer lifetime; the collaborator is not accessed. -/
def execLcfg (l : BitVec 4) (s : State) : Host.Outcome State Fault Refusal :=
  finish s do
    checkLayer s l
    let id ← checkRequest s
    let visw := lowHalf (s.operand 4)
    let vish := highHalf (s.operand 4)
    let virtw := lowHalf (s.operand 5)
    let virth := highHalf (s.operand 5)
    checkSizes s.params visw vish virtw virth
    return s
      |>.setLayer l (configuredRecord id visw vish virtw virth (s.operand 6))
      |>.setResult 0 (toWord id)
      |>.setResult 1 (toWord s.params.catalog[id].bpp)

end Sys2Proof.Machine
end

