-- ==== Sys2Proof/Machine/Geometry.lean ====
section
/-! DEFINITION. The unit GEO (spec 44_geometry): the validation function, the register encodings, GEOSET and
GEOGET. -/

namespace Sys2Proof.Machine

/-- Rules 3 and 4 of R140: the part of `[pos, pos + size)` inside `[0, visible)`; the sum is exact. -/
def clampSize (visible : BitVec 16) (pos size : Word) : Word :=
  if pos.toNat + size.toNat > visible.toNat then toWord (visible.toNat - pos.toNat) else size

/-- Rule 5 of R140: on a 4:2:2 format a width above 2 loses its bit 0. -/
def evenWidth (is422 : Bool) (w : Word) : Word :=
  if is422 = true ∧ w.toNat > 2 then toWord (w.toNat - w.toNat % 2) else w

/-- `validate` (R140), the six rules in order; the byte offset is computed apart. -/
def validate (L : LayerRecord) (F : PixelFormat) (g : Geometry) : Except ErrorKind Geometry :=
  if g.x.toNat > L.visw.toNat ∨ g.y.toNat > L.vish.toNat then .error .invalidPosition
  else if g.w = 0 ∨ g.h = 0 then .error .invalidSize
  else .ok { g with w := evenWidth F.is422 (clampSize L.visw g.x g.w), h := clampSize L.vish g.y g.h }

/-- `byteOffset(L, xo, yo)`, reduced `mod 2^32` (R142). -/
def byteOffset (L : LayerRecord) (F : PixelFormat) (xo yo : Word) : Word :=
  toWord (xo.toNat * bytesPerPixel F + yo.toNat * L.virtw.toNat * bytesPerPixel F)

/-- Position as the hardware holds it: `(resolution - (coordinate + 1)) mod 2^32` (R143). -/
def encodePosition (resolution : BitVec 16) (coordinate : Word) : Word :=
  resolution.zeroExtend 32 - (coordinate + 1)

/-- Its inverse: `(resolution - 1 - register) mod 2^32` (R143). -/
def decodePosition (resolution : BitVec 16) (register : Word) : Word :=
  resolution.zeroExtend 32 - 1 - register

/-- Size as the hardware holds it: `(size - 1) mod 2^32` (R143). -/
def encodeSize (size : Word) : Word := size - 1

/-- Its inverse (R143). -/
def decodeSize (register : Word) : Word := register + 1

/-- The write sequence of `GEN = 0`: offset, size, position (R144). -/
def offsetSequence (L : LayerRecord) (g : Geometry) : List (Slot × Word) :=
  [ (.hoff, g.xoff), (.voff, g.yoff), (.hsize, encodeSize g.w), (.vsize, encodeSize g.h),
    (.hpos, encodePosition L.visw g.x), (.vpos, encodePosition L.vish g.y) ]

/-- The write sequence of `GEN = 1`: size, position, address (R145). -/
def addressSequence (L : LayerRecord) (g : Geometry) (bo : Word) : List (Slot × Word) :=
  [ (.hsize, encodeSize g.w), (.vsize, encodeSize g.h),
    (.hpos, encodePosition L.visw g.x), (.vpos, encodePosition L.vish g.y), (.addr, L.fbbase + bo) ]

/-- The sequence that the generation flag selects (R141). -/
def writeSequence (gen : Gen) (L : LayerRecord) (g : Geometry) (bo : Word) : List (Slot × Word) :=
  match gen with
  | .offsetRegisters => offsetSequence L g
  | .dynamicAddressing => addressSequence L g bo

/-- A geometry in `R0..R5` (R64). -/
def State.setGeometryResults (s : State) (g : Geometry) : State :=
  s |>.setResult 0 g.x |>.setResult 1 g.y |>.setResult 2 g.w |>.setResult 3 g.h
    |>.setResult 4 g.xoff |>.setResult 5 g.yoff

/-- GEOSET (R141). -/
def execGeoset (l : BitVec 4) (s : State) : Host.Outcome State Fault Refusal :=
  finish s do
    let L ← checkConfigured s l
    let F := s.params.catalog[L.fmt]
    let g ← validate L F s.geometryOperands
    let bo := byteOffset L F g.xoff g.yoff
    return s
      |>.setLayer l { L with geo := g }
      |>.regWrites l (writeSequence s.params.gen L g bo)
      |>.setGeometryResults g
      |>.setResult 6 bo

/-- The reads of GEOGET in their order, decoded with the record's sizes; under `GEN = 1` the offsets are
the record's (R148). -/
def readGeometry (s : State) (l : BitVec 4) (L : LayerRecord) : Geometry × State :=
  let hp := s.regRead l .hpos
  let vp := hp.2.regRead l .vpos
  let hs := vp.2.regRead l .hsize
  let vs := hs.2.regRead l .vsize
  match s.params.gen with
  | .offsetRegisters =>
    let xo := vs.2.regRead l .hoff
    let yo := xo.2.regRead l .voff
    (⟨decodePosition L.visw hp.1, decodePosition L.vish vp.1, decodeSize hs.1, decodeSize vs.1, xo.1, yo.1⟩, yo.2)
  | .dynamicAddressing =>
    (⟨decodePosition L.visw hp.1, decodePosition L.vish vp.1, decodeSize hs.1, decodeSize vs.1,
      L.geo.xoff, L.geo.yoff⟩, vs.2)

/-- GEOGET (R148): the layer record is not written. -/
def execGeoget (l : BitVec 4) (s : State) : Host.Outcome State Fault Refusal :=
  finish s do
    let L ← checkConfigured s l
    return (readGeometry s l L).2.setGeometryResults (readGeometry s l L).1

end Sys2Proof.Machine
end

