-- ==== Sys2Proof/Machine/Passthrough.lean ====
section
/-! DEFINITION. The unit REG (spec 45_regaccess): the bounded raw register passthrough. -/

namespace Sys2Proof.Machine

/-- REGRD (R161): one `RegRead`; the layer need not be configured. -/
def execRegrd (l : BitVec 4) (s : State) : Host.Outcome State Fault Refusal :=
  finish s do
    checkLayer s l
    let t ← checkSlot (s.operand 0)
    return (s.regRead l t).2.setResult 0 (s.regRead l t).1

/-- REGWR (R162): one `RegWrite`; no result register and no layer record changes. -/
def execRegwr (l : BitVec 4) (s : State) : Host.Outcome State Fault Refusal :=
  finish s do
    checkLayer s l
    let t ← checkSlot (s.operand 0)
    return s.regWrite l t (s.operand 1)

end Sys2Proof.Machine
end

