-- ==== Sys2Proof/Machine/Dispatch.lean ====
section
/-! DEFINITION. One arm per operation (spec 30_encoding R61). -/

namespace Sys2Proof.Machine

def exec (i : Instr) (s : State) : Host.Outcome State Fault Refusal :=
  match i with
  | .fmtres => Sys2Proof.Machine.execFmtres s
  | .lcfg l => Sys2Proof.Machine.execLcfg l s
  | .rgb2yuv => Sys2Proof.Machine.execRgb2yuv s
  | .yuv2rgb => Sys2Proof.Machine.execYuv2rgb s
  | .alpha2hw f => Sys2Proof.Machine.execAlpha2hw f s
  | .hw2alpha f => Sys2Proof.Machine.execHw2alpha f s
  | .pxenc f => Sys2Proof.Machine.execPxenc f s
  | .pxdec f => Sys2Proof.Machine.execPxdec f s
  | .clutenc f => Sys2Proof.Machine.execClutenc f s
  | .geoset l => Sys2Proof.Machine.execGeoset l s
  | .geoget l => Sys2Proof.Machine.execGeoget l s
  | .regrd l => Sys2Proof.Machine.execRegrd l s
  | .regwr l => Sys2Proof.Machine.execRegwr l s

end Sys2Proof.Machine
end

