-- ==== Sys2Proof/Machine/HostPort.lean ====
section
/-! DEFINITION. The host register space (spec 20_memory R40 to R42, R53) and the service of one host action:
a read, a write, the command that a write of `CMD` issues (10_state R13), or a reset (70_reset R190). -/

namespace Sys2Proof.Machine

/-- What stands at a word of the host register space (R41). -/
inductive HostReg where
  | cmd
  | status
  | config
  | operand (i : Fin 8)
  | result (i : Fin 8)
  | entry (i : Fin 256)
  | clut (i : Fin 256)
  | reserved
  deriving DecidableEq, Repr

/-- The register at word index `k` below 0x300, that is at byte offset `4 * k` (R41). -/
def hostRegAt (k : Nat) : HostReg :=
  if k = 0 then .cmd
  else if k = 1 then .status
  else if k = 2 then .config
  else if k < 0x08 then .reserved
  else if k < 0x10 then .operand (Fin.ofNat 8 (k - 0x08))
  else if k < 0x18 then .result (Fin.ofNat 8 (k - 0x10))
  else if k < 0x100 then .reserved
  else if k < 0x200 then .entry (Fin.ofNat 256 (k - 0x100))
  else .clut (Fin.ofNat 256 (k - 0x200))

/-- The register a host access reaches, or why the access is outside the block's contract (R42, R53, 93 U11;
assumption log 10). -/
def hostTarget (width offset : Nat) : Except Refusal HostReg :=
  if width ≠ 32 then .error (.accessWidth width)
  else if offset % 4 ≠ 0 then .error (.misalignedAccess offset)
  else if offset ≥ 0xC00 then .error (.outsideBlock offset)
  else .ok (hostRegAt (offset / 4))

/-- The block executes the command word `w` (R13, R62, R63): it is stored in `CMD` first; an illegal word
does nothing but raise `IllegalCommand`. -/
def runCommand (w : Word) (s : State) : Host.Outcome State Fault Refusal :=
  match decode s.params.nlayers w with
  | .ok i => exec i (s.setCmd w)
  | .error _ => .next ((s.setCmd w).raise .illegalCommand)

/-- A host write of `v` to a register (R41): `CMD` issues a command, `Ai` and `EBUF[i]` store, everything
else ignores the write. -/
def hostWrite (t : HostReg) (v : Word) (s : State) : Host.Outcome State Fault Refusal :=
  match t with
  | .cmd => runCommand v s
  | .status => .next s
  | .config => .next s
  | .operand i => .next (s.setOperand i v)
  | .result _ => .next s
  | .entry i => .next (s.setEntry i v)
  | .clut _ => .next s
  | .reserved => .next s

/-- The value a host read of a register returns, without side effect; a reserved offset returns an
unspecified value (R41, R53). -/
def hostRead (t : HostReg) (s : State) : Word × State :=
  match t with
  | .cmd => (s.cmd, s)
  | .status => (s.status, s)
  | .config => (configWord s.params, s)
  | .operand i => (s.a[i], s)
  | .result i => (s.r[i], s)
  | .entry i => (s.ebuf[i], s)
  | .clut i => (s.cbuf[i], s)
  | .reserved => s.draw

/-- One host action served. -/
def serve (act : HostAction) (s : State) : Host.Outcome State Fault Refusal :=
  match act with
  | .write width offset v =>
    match hostTarget width offset with
    | .error e => .refused e
    | .ok t => hostWrite t v s
  | .read width offset =>
    match hostTarget width offset with
    | .error e => .refused e
    | .ok t => .next ((hostRead t s).2.setReadData (hostRead t s).1)
  | .writeBack width offset =>
    match hostTarget width offset with
    | .error e => .refused e
    | .ok t => hostWrite t s.readData s
  | .stopOnError count =>
    .next ((s.setReadData s.status).setPending (if s.status = 0 then s.pending else s.pending.drop count))
  | .reset => .next s.resetEvent

/-- One step: the oldest host action is taken and served; with none the block is idle and keeps all its
state (10_state R12, 60_exceptions R184). -/
def stepHost (s : State) : Host.Outcome State Fault Refusal :=
  match s.pending with
  | [] => .next s
  | act :: rest => serve act (s.setPending rest)

/-- The host action that issues a command word: a 32-bit write of `CMD` at offset 0 (R13, R41). -/
def issue (w : Word) : HostAction := .write 32 0x000 w

end Sys2Proof.Machine
end

