-- ==== Sys2Proof/Machine/Step.lean ====
section
/-! DEFINITION. The step function, and how a command word is placed so that the next step runs it. -/

namespace Sys2Proof.Machine

/-- One step of the machine: one host access served to completion (spec 10_state R12, R13). -/
def step (s : State) : Host.Outcome State Fault Refusal := stepHost s

/-- `s` with the command word issued as the very next host access (assumption log 5). -/
def State.withFetchWord (s : State) (nbits w : Nat) : State :=
  s.setPending (issue (tableWord nbits w) :: s.pending)

end Sys2Proof.Machine
end

