-- ==== Sys2Proof/Machine/HostProgram.lean ====
section
/-! DEFINITION. The host's lines and pseudo-instructions as lists of host actions (spec 30_encoding R71,
R72; 45_regaccess R163). None is a command of its own. -/

namespace Sys2Proof.Machine

/-- Byte offsets of the host register space (R41). -/
def statusOffset : Nat := 0x004
def configOffset : Nat := 0x008
def operandOffset (i : Fin 8) : Nat := 0x020 + 4 * i
def resultOffset (i : Fin 8) : Nat := 0x040 + 4 * i
def entryOffset (i : Fin 256) : Nat := 0x400 + 4 * i
def clutOffset (i : Fin 256) : Nat := 0x800 + 4 * i

/-- `WR Ai, v` (R71). -/
def wr (i : Fin 8) (v : Word) : HostAction := .write 32 (operandOffset i) v

/-- `WR EBUF[i], v` (R71). -/
def wrEntry (i : Fin 256) (v : Word) : HostAction := .write 32 (entryOffset i) v

/-- `RD` of the register at a byte offset (R71). -/
def rd (offset : Nat) : HostAction := .read 32 offset

/-- `MOV Ai, Rj`: two host accesses (R71). -/
def mov (i j : Fin 8) : List HostAction := [rd (resultOffset j), .writeBack 32 (operandOffset i)]

/-- `<MNEMONIC>`: the host write of the command word (R71). -/
def cmd (i : Instr) : HostAction := issue (encode i)

/-- Catalog names that may stand for `F<f>` (R71, R81). -/
def namedFormats : List (String × BitVec 5) :=
  [ ("A8", 0), ("C8_ARGB6565", 1), ("C8_ARGB8888", 2), ("C8_AYUV8888", 3), ("RGB332", 4), ("BGR233", 5),
    ("RGB565", 6), ("BGR565", 7), ("XRGB8888", 8), ("XBGR8888", 9), ("XRGB2101010", 10), ("XBGR2101010", 11),
    ("ARGB8888", 12), ("ABGR8888", 13), ("YUYV", 14), ("UYVY", 15), ("YUYV10", 16), ("UYVY10", 17),
    ("XYUV8888", 18), ("XVUY8888", 19), ("XYUV2101010", 20), ("XVUY2101010", 21), ("AYUV8888", 22),
    ("AVUY8888", 23) ]

/-- `SETALPHA L<l>, F<f>, a` (R72): the host stops after ALPHA2HW if `STATUS != 0`. -/
def setAlpha (l : BitVec 4) (f : BitVec 5) (alpha : Word) : List HostAction :=
  [wr 0 alpha, cmd (.alpha2hw f), .stopOnError 4, wr 0 (toWord Slot.alpha.number)] ++ mov 1 0 ++ [cmd (.regwr l)]

/-- `GETALPHA L<l>, F<f>` (R72). -/
def getAlpha (l : BitVec 4) (f : BitVec 5) : List HostAction :=
  [wr 0 (toWord Slot.alpha.number), cmd (.regrd l)] ++ mov 0 0 ++ [cmd (.hw2alpha f)]

/-- `SETTRANSP L<l>, F<f>, c0, c1, c2, c3` (R72). -/
def setTransp (l : BitVec 4) (f : BitVec 5) (c0 c1 c2 c3 : Word) : List HostAction :=
  [wr 0 c0, wr 1 c1, wr 2 c2, wr 3 c3, cmd (.pxenc f), wr 0 (toWord Slot.transp.number)] ++ mov 1 0 ++ [cmd (.regwr l)]

/-- `GETTRANSP L<l>, F<f>` (R72). -/
def getTransp (l : BitVec 4) (f : BitVec 5) : List HostAction :=
  [wr 0 (toWord Slot.transp.number), cmd (.regrd l)] ++ mov 0 0 ++ [cmd (.pxdec f)]

/-- The writes `WR EBUF[i], e_i` from index `i` on (R72). -/
def wrEntries : Nat → List Word → List HostAction
  | _, [] => []
  | i, e :: rest => .write 32 (0x400 + 4 * i) e :: wrEntries (i + 1) rest

/-- `SETCLUT F<f>, s, e_0, ..., e_(n-1)` (R72), up to the CLUTENC; copying `CBUF` on is the collaborator's. -/
def setClut (f : BitVec 5) (start : Word) (entries : List Word) : List HostAction :=
  wrEntries 0 entries ++ [wr 0 start, wr 1 (toWord entries.length), cmd (.clutenc f)]

end Sys2Proof.Machine
end

