-- ==== Sys2Proof/Safety.lean ====
section
/-! DEFINITION. The invariant of the machine and the host programs that stay inside the block's contract, in
the terms the claims use. -/

namespace Sys2Proof.Safety

open Sys2Proof.Machine

/-- The geometry of a configured layer stays inside its visible area (R140, R86): `x <= VISW`,
`x + w <= VISW`, and the same vertically. -/
def GeometryInside (L : LayerRecord) : Prop :=
  L.geo.x.toNat + L.geo.w.toNat ≤ L.visw.toNat ∧ L.geo.y.toNat + L.geo.h.toNat ≤ L.vish.toNat

/-- The sizes of a configured layer are legal (R17, R86). -/
def SizesLegal (p : Params) (L : LayerRecord) : Prop :=
  1 ≤ L.visw.toNat ∧ L.visw.toNat ≤ p.maxw ∧ 1 ≤ L.vish.toNat ∧ L.vish.toNat ≤ p.maxh ∧
    L.visw.toNat ≤ L.virtw.toNat ∧ L.vish.toNat ≤ L.virth.toNat

/-- Every configured layer exists, has legal sizes and a geometry inside its visible area. -/
def LayersLegal (s : State) : Prop :=
  ∀ l : BitVec 4, (s.layer l).valid = true →
    l.toNat < s.params.nlayers ∧ SizesLegal s.params (s.layer l) ∧ GeometryInside (s.layer l)

/-- `STATUS[3:0]` is one of the nine codes and `STATUS[31:4]` is 0 (R14, R70, R171). -/
def StatusLegal (s : State) : Prop := s.status.toNat ≤ 8

/-- The shadow array is canonical and lists only slots of existing layers (R46, R47). -/
def ShadowLegal (s : State) : Prop :=
  s.hw.wf = true ∧ ∀ e ∈ s.hw, e.1 < Config.layerNregs * s.params.nlayers

/-- The layer that a recorded access names. -/
def eventLayer : Event → BitVec 4
  | .regWrite l _ _ => l
  | .regRead l _ _ => l

/-- The collaborator was only ever asked for existing layers (R46). -/
def EventsLegal (s : State) : Prop := ∀ e ∈ s.events, (eventLayer e).toNat < s.params.nlayers

/-- The invariant: every step keeps it. -/
structure Inv (s : State) : Prop where
  params : paramsWf s.params = true
  status : StatusLegal s
  layers : LayersLegal s
  shadow : ShadowLegal s
  events : EventsLegal s

/-- A host action inside the block's contract: 32 bits wide, aligned, below 0xC00 (R42, R53, 93 U11). -/
def InContract : HostAction → Prop
  | .write width offset _ => width = 32 ∧ offset % 4 = 0 ∧ offset < 0xC00
  | .read width offset => width = 32 ∧ offset % 4 = 0 ∧ offset < 0xC00
  | .writeBack width offset => width = 32 ∧ offset % 4 = 0 ∧ offset < 0xC00
  | .stopOnError _ => True
  | .reset => True

/-- A host whose every pending action is inside the contract. -/
def HostInContract (s : State) : Prop := ∀ act ∈ s.pending, InContract act

end Sys2Proof.Safety
end

