-- ==== Sys2Proof/Certificates/Slice0/Obligations.lean ====
section
/-! DEFINITION. The statements for the provers, and the spec-side notions they are written in. Formulas of the
spec are written out here again, apart from the definitions of the machine that they are about. -/

namespace Sys2Proof.Claims

open Sys2Proof.Machine

/-! ### Commands -/

/-- The host's next access is the 32-bit write of `w` to `CMD`; `rest` follows (spec 10_state R13). -/
def Issues (s : State) (w : Word) (rest : List HostAction) : Prop :=
  s.pending = .write 32 0x000 w :: rest

/-- The operation ends with the given `STATUS` and changes nothing else (60_exceptions R173). -/
def FailsWith (i : Instr) (s : State) (code : Word) : Prop :=
  exec i s = .next { s with status := code }

/-- The command word of an operation with a `layer` field (30_encoding R61). -/
def layerWord (base : Word) (l : BitVec 4) : Word := base ||| (l.zeroExtend 32 <<< 20)

/-- The command word of an operation with a `fmt` field (30_encoding R61). -/
def fmtWord (base : Word) (f : BitVec 5) : Word := base ||| f.zeroExtend 32

/-- Opcodes of the operations without a free field, with a `layer` field and with a `fmt` field (R61). -/
abbrev plainOps : List (BitVec 8) := [0x01, 0x10, 0x11]
abbrev layerOps : List (BitVec 8) := [0x02, 0x30, 0x31, 0x38, 0x39]
abbrev fmtOps : List (BitVec 8) := [0x18, 0x19, 0x20, 0x21, 0x22]

/-- The word matches a row of the opcode map (R61, R63). -/
abbrev MatchesRow (w : Word) : Prop :=
  zeroField w = 0 ∧
    ((opField w ∈ plainOps ∧ layerField w = 0 ∧ fmtField w = 0) ∨
     (opField w ∈ layerOps ∧ fmtField w = 0) ∨
     (opField w ∈ fmtOps ∧ layerField w = 0))

/-- The word names a layer that the block does not have (R62). -/
abbrev LayerOutOfRange (n : Nat) (w : Word) : Prop := opField w ∈ layerOps ∧ n ≤ (layerField w).toNat

/-! ### Operands, formats -/

/-- The row's key equals `A0..A3`, compared as numbers (40_catalog R83). -/
abbrev RowMatches (F : PixelFormat) (s : State) : Prop :=
  F.type.code = s.a[0].toNat ∧ F.reqBpp = s.a[1].toNat ∧ F.tm.code = s.a[2].toNat ∧
    swapCode F.swapped = s.a[3].toNat

/-- `w` is the image of a channel field: offset in bits 7:0, length in bits 15:8, 0 above (30_encoding R68). -/
def IsFieldImage (w : Word) (c : ChannelField) : Prop :=
  w.toNat % 256 = c.offset ∧ w.toNat / 256 % 256 = c.length ∧ w.toNat / 65536 = 0

/-- `w` is the attributes word of a format, bit field by bit field (30_encoding R68). -/
def IsAttributes (w : Word) (F : PixelFormat) : Prop :=
  w.toNat % 4 = F.cls.code ∧ w.toNat / 2 ^ 2 % 4 = F.clutVariant.code ∧
  w.toNat / 2 ^ 4 % 2 = swapCode F.swapped ∧ w.toNat / 2 ^ 5 % 2 = F.is422.toNat ∧
  w.toNat / 2 ^ 6 % 2 = F.conv.toNat ∧ w.toNat / 2 ^ 7 % 2 = 0 ∧
  w.toNat / 2 ^ 8 % 8 = F.tm.code ∧ w.toNat / 2 ^ 11 % 2 = 0 ∧
  w.toNat / 2 ^ 12 % 16 = F.alphaBits ∧ w.toNat / 2 ^ 16 % 16 = F.storageBits / 8 ∧
  w.toNat / 2 ^ 20 = 0

/-- The four size operands of LCFG (40_catalog R86). -/
def reqVisw (s : State) : Nat := s.a[4].toNat % 65536
def reqVish (s : State) : Nat := s.a[4].toNat / 65536
def reqVirtw (s : State) : Nat := s.a[5].toNat % 65536
def reqVirth (s : State) : Nat := s.a[5].toNat / 65536

/-- A size that LCFG refuses (40_catalog R86). -/
abbrev BadSizes (s : State) : Prop :=
  reqVisw s = 0 ∨ reqVish s = 0 ∨ reqVisw s > s.params.maxw ∨ reqVish s > s.params.maxh ∨
    reqVirtw s < reqVisw s ∨ reqVirth s < reqVish s

/-- The pixel format of layer `l`. -/
def layerFormat (s : State) (l : BitVec 4) : PixelFormat := s.params.catalog[(s.layer l).fmt]

/-- A position that GEOSET refuses, and a size that it refuses (44_geometry R140 rules 1 and 2). -/
abbrev BadPosition (s : State) (l : BitVec 4) : Prop :=
  s.a[0].toNat > (s.layer l).visw.toNat ∨ s.a[1].toNat > (s.layer l).vish.toNat
abbrev EmptyRequest (s : State) : Prop := s.a[2].toNat = 0 ∨ s.a[3].toNat = 0

/-! ### Conversions and packing -/

/-- A quotient kept in 0..255, as a register value (41_colorspace R100, R103). -/
def clamp8 (q : Int) : Word := BitVec.ofInt 32 (max 0 (min 255 q))

/-- The presets in force (41_colorspace R100, R103). -/
def fwdInForce (p : Params) : FwdCoeffs := if p.profile = .standard then p.fwdStandard else p.fwdItu656
def revInForce (p : Params) : RevCoeffs := if p.profile = .standard then p.revStandard else p.revItu656

/-- The three unsaturated quotients of the forward formula (41_colorspace R100). -/
def quotientY (c : FwdCoeffs) (r g b : Nat) : Int :=
  (c.cyr.toInt * r + c.cyg.toInt * g + c.cyb.toInt * b + c.cy.toInt).tdiv 100000
def quotientU (c : FwdCoeffs) (r g b : Nat) : Int :=
  (-c.cur.toInt * r - c.cug.toInt * g + c.cub.toInt * b + 12800000).tdiv 100000
def quotientV (c : FwdCoeffs) (r g b : Nat) : Int :=
  (c.cvr.toInt * r - c.cvg.toInt * g - c.cvb.toInt * b + 12800000).tdiv 100000

/-- One unsaturated quotient of the reverse formula (41_colorspace R103). -/
def quotientRev (c : RevCoeffs) (m : RevRow) (y u v : Nat) : Int :=
  (m.my.toInt * ((y : Int) - c.oy.toInt) + m.mu.toInt * ((u : Int) - c.ou.toInt)
    + m.mv.toInt * ((v : Int) - c.ov.toInt) + m.k.toInt).tdiv c.norm.toInt

/-- The sum of the four truncated channels at their offsets (43_pixel_codec R120). -/
def packSum (F : PixelFormat) (c0 c1 c2 c3 : Nat) : Nat :=
  c0 % 2 ^ F.ch0.length * 2 ^ F.ch0.offset + c1 % 2 ^ F.ch1.length * 2 ^ F.ch1.offset
    + c2 % 2 ^ F.ch2.length * 2 ^ F.ch2.offset + c3 % 2 ^ F.ch3.length * 2 ^ F.ch3.offset

/-- The word that four channel values are stored as; a row with `conv` converts first (R122, R125). -/
def storedWord (p : Params) (F : PixelFormat) (c0 c1 c2 c3 : Nat) : Word :=
  if F.conv = true then
    BitVec.ofNat 32 (packSum F c0
      (clamp8 (quotientY (fwdInForce p) (c1 % 256) (c2 % 256) (c3 % 256))).toNat
      (clamp8 (quotientU (fwdInForce p) (c1 % 256) (c2 % 256) (c3 % 256))).toNat
      (clamp8 (quotientV (fwdInForce p) (c1 % 256) (c2 % 256) (c3 % 256))).toNat)
  else BitVec.ofNat 32 (packSum F c0 c1 c2 c3)

/-- One channel of a raw word (43_pixel_codec R121). -/
def channelOf (c : ChannelField) (raw : Word) : Nat := raw.toNat / 2 ^ c.offset % 2 ^ c.length

/-- The four channel values after the conversion step; a row with `conv` stores Y, U, V (43_pixel_codec R125). -/
def prepared (p : Params) (F : PixelFormat) (c0 c1 c2 c3 : Nat) : Nat × Nat × Nat × Nat :=
  if F.conv = true then
    (c0, (clamp8 (quotientY (fwdInForce p) (c1 % 256) (c2 % 256) (c3 % 256))).toNat,
      (clamp8 (quotientU (fwdInForce p) (c1 % 256) (c2 % 256) (c3 % 256))).toNat,
      (clamp8 (quotientV (fwdInForce p) (c1 % 256) (c2 % 256) (c3 % 256))).toNat)
  else (c0, c1, c2, c3)

/-- Each channel value truncated to its field (43_pixel_codec R126). -/
def fitted (F : PixelFormat) (c : Nat × Nat × Nat × Nat) : Nat × Nat × Nat × Nat :=
  (c.1 % 2 ^ F.ch0.length, c.2.1 % 2 ^ F.ch1.length, c.2.2.1 % 2 ^ F.ch2.length, c.2.2.2 % 2 ^ F.ch3.length)

/-- `R0..R3` as numbers. -/
def channelResults (s : State) : Nat × Nat × Nat × Nat :=
  (s.r[0].toNat, s.r[1].toNat, s.r[2].toNat, s.r[3].toNat)

/-- Bit `j` belongs to no channel of the format (30_encoding R69). -/
def OutsideFields (F : PixelFormat) (j : Nat) : Prop :=
  ∀ c ∈ [F.ch0, F.ch1, F.ch2, F.ch3], j < c.offset ∨ c.offset + c.length ≤ j

/-! ### Geometry -/

/-- The clamped width and height of a request (44_geometry R140 rules 3 to 5). -/
def clampedWidth (s : State) (l : BitVec 4) : Nat :=
  let w := min s.a[2].toNat ((s.layer l).visw.toNat - s.a[0].toNat)
  if (layerFormat s l).is422 = true ∧ 2 < w then w - w % 2 else w
def clampedHeight (s : State) (l : BitVec 4) : Nat :=
  min s.a[3].toNat ((s.layer l).vish.toNat - s.a[1].toNat)

/-- The exact byte offset of a request (44_geometry R142). -/
def exactOffset (s : State) (l : BitVec 4) : Nat :=
  s.a[4].toNat * ((layerFormat s l).storageBits / 8)
    + s.a[5].toNat * (s.layer l).virtw.toNat * ((layerFormat s l).storageBits / 8)

/-- The values GEOSET writes, in order, for the generation in force (44_geometry R143, R144, R145). -/
def geometryWrites (s : State) (l : BitVec 4) : List (Slot × Word) :=
  let hsize := BitVec.ofInt 32 ((clampedWidth s l : Int) - 1)
  let vsize := BitVec.ofInt 32 ((clampedHeight s l : Int) - 1)
  let hpos := BitVec.ofInt 32 (((s.layer l).visw.toNat : Int) - ((s.a[0].toNat : Int) + 1))
  let vpos := BitVec.ofInt 32 (((s.layer l).vish.toNat : Int) - ((s.a[1].toNat : Int) + 1))
  match s.params.gen with
  | .offsetRegisters =>
    [(.hoff, s.a[4]), (.voff, s.a[5]), (.hsize, hsize), (.vsize, vsize), (.hpos, hpos), (.vpos, vpos)]
  | .dynamicAddressing =>
    [(.hsize, hsize), (.vsize, vsize), (.hpos, hpos), (.vpos, vpos),
      (.addr, BitVec.ofNat 32 ((s.layer l).fbbase.toNat + exactOffset s l))]

/-! ### The collaborator -/

/-- The collaborator answers reads of these slots of layer `l` with these values (20_memory R47): under the
shadow policy they are the words last written there, under the oracle policy any words. -/
def Answers (s : State) (l : BitVec 4) (xs : List (Slot × Word)) : Prop :=
  (s.params.collab = .shadow ∧ ∀ x ∈ xs, s.hw.read (slotKey l x.1) = some x.2) ∨
  (s.params.collab = .oracle ∧ ∃ rest, s.answers = xs.map (·.2) ++ rest)

/-- The answers still to come after `k` reads: the oracle's are used up, the shadow array uses none. -/
def answersAfter (s : State) (k : Nat) : List Word :=
  if s.params.collab = .oracle then s.answers.drop k else s.answers

/-- The words that GEOGET's reads return; the offsets are read under `GEN = 0` only (44_geometry R148). -/
structure GeometryReads where
  hp : Word
  vp : Word
  hs : Word
  vs : Word
  xo : Word
  yo : Word

/-- The reads of GEOGET in their order (44_geometry R148). -/
def GeometryReads.reads (g : GeometryReads) (s : State) : List (Slot × Word) :=
  match s.params.gen with
  | .offsetRegisters => [(.hpos, g.hp), (.vpos, g.vp), (.hsize, g.hs), (.vsize, g.vs), (.hoff, g.xo), (.voff, g.yo)]
  | .dynamicAddressing => [(.hpos, g.hp), (.vpos, g.vp), (.hsize, g.hs), (.vsize, g.vs)]

/-- `t` is `s` after a GEOGET of layer `l` whose reads returned `g`: the reads recorded, the decoded geometry in
`R0..R5`, `STATUS` 0, and nothing else changed but where the next free value comes from (R148). -/
def DecodedFrom (s t : State) (l : BitVec 4) (g : GeometryReads) : Prop :=
  t = { s with
    r := t.r
    status := 0
    events := s.events ++ (g.reads s).map fun x => .regRead l x.1 x.2
    answers := t.answers
    freeCount := t.freeCount } ∧
  t.r[0] = BitVec.ofInt 32 (((s.layer l).visw.toNat : Int) - 1 - g.hp.toNat) ∧
  t.r[1] = BitVec.ofInt 32 (((s.layer l).vish.toNat : Int) - 1 - g.vp.toNat) ∧
  t.r[2] = BitVec.ofNat 32 (g.hs.toNat + 1) ∧ t.r[3] = BitVec.ofNat 32 (g.vs.toNat + 1) ∧
  (s.params.gen = .offsetRegisters → t.r[4] = g.xo ∧ t.r[5] = g.yo) ∧
  (s.params.gen = .dynamicAddressing → t.r[4] = (s.layer l).geo.xoff ∧ t.r[5] = (s.layer l).geo.yoff) ∧
  t.r[6] = s.r[6] ∧ t.r[7] = s.r[7]

/-- A step that records no `RegWrite` to slot `c` of layer `l` (20_memory R54). -/
def LeavesSlot (l : BitVec 4) (c : Slot) (s t : State) : Prop :=
  step s = .next t ∧ ∃ new, t.events = s.events ++ new ∧ ∀ v, Event.regWrite l c v ∉ new

/-! ### Host writes -/

/-- The next host access writes `v` at an offset, as a plain write or as the write half of a `MOV`, whose value
is the word last read (20_memory R41, 30_encoding R71). -/
def HostWrites (s : State) (offset : Nat) (v : Word) (rest : List HostAction) : Prop :=
  s.pending = .write 32 offset v :: rest ∨ (s.pending = .writeBack 32 offset :: rest ∧ s.readData = v)

/-! ### Who reads and writes what (30_encoding R64) -/

/-- The operand registers an operation may read. -/
def namedOperands : Instr → List (Fin 8)
  | .fmtres => [0, 1, 2, 3]
  | .lcfg _ => [0, 1, 2, 3, 4, 5, 6]
  | .rgb2yuv => [1, 2, 3]
  | .yuv2rgb => [1, 2, 3]
  | .alpha2hw _ => [0]
  | .hw2alpha _ => [0]
  | .pxenc _ => [0, 1, 2, 3]
  | .pxdec _ => [0]
  | .clutenc _ => [0, 1]
  | .geoset _ => [0, 1, 2, 3, 4, 5]
  | .geoget _ => []
  | .regrd _ => [0]
  | .regwr _ => [0, 1]

/-- The result registers an operation writes when it succeeds. -/
def writtenResults : Instr → List (Fin 8)
  | .fmtres => [0, 1, 2, 3, 4, 5, 6]
  | .lcfg _ => [0, 1]
  | .rgb2yuv => [1, 2, 3]
  | .yuv2rgb => [1, 2, 3]
  | .alpha2hw _ => [0]
  | .hw2alpha _ => [0]
  | .pxenc _ => [0]
  | .pxdec _ => [0, 1, 2, 3]
  | .clutenc _ => []
  | .geoset _ => [0, 1, 2, 3, 4, 5, 6]
  | .geoget _ => [0, 1, 2, 3, 4, 5]
  | .regrd _ => [0]
  | .regwr _ => []

/-- Operations that touch nothing but result registers and `STATUS`. -/
def IsPure : Instr → Prop
  | .fmtres => True
  | .lcfg _ => False
  | .rgb2yuv => True
  | .yuv2rgb => True
  | .alpha2hw _ => True
  | .hw2alpha _ => True
  | .pxenc _ => True
  | .pxdec _ => True
  | .clutenc _ => False
  | .geoset _ => False
  | .geoget _ => False
  | .regrd _ => False
  | .regwr _ => False

/-! ### The error that a command reports (60_exceptions R172) -/

/-- Step 5 of R172: the operation's own checks in their order, by opcode. -/
def ownError (s : State) (w : Word) : Nat :=
  let l := layerField w
  if opField w = 0x01 then (if ∃ id : Fin 24, RowMatches s.params.catalog[id] s then 0 else 1)
  else if opField w = 0x02 then
    (if ∃ id : Fin 24, RowMatches s.params.catalog[id] s then (if BadSizes s then 4 else 0) else 1)
  else if opField w = 0x18 ∨ opField w = 0x19 then
    (if ∀ F ∈ s.params.catalog[(fmtField w).toNat]?, F.tm = .layer then 0 else 2)
  else if opField w = 0x22 then (if s.a[0].toNat + s.a[1].toNat > 256 then 5 else 0)
  else if opField w = 0x30 then (if BadPosition s l then 3 else if EmptyRequest s then 4 else 0)
  else if opField w = 0x38 ∨ opField w = 0x39 then (if s.a[0].toNat ≥ 10 then 6 else 0)
  else 0

/-- The first check that fails determines the code; 0 when none does. -/
def firstError (s : State) (w : Word) : Nat :=
  if ¬ MatchesRow w then 8
  else if LayerOutOfRange s.params.nlayers w then 8
  else if opField w ∈ fmtOps ∧ 24 ≤ (fmtField w).toNat then 1
  else if (opField w = 0x30 ∨ opField w = 0x31) ∧ (s.layer (layerField w)).valid = false then 7
  else ownError s w

/-! ### Runs that leave a layer's geometry alone (44_geometry R149) -/

/-- The command word that the next step issues, by a plain write or by the write half of `MOV`. -/
def commandOf (s : State) : Option Word :=
  match s.pending with
  | .write 32 0x000 w :: _ => some w
  | .writeBack 32 0x000 :: _ => some s.readData
  | _ => none

/-- The step from `s` to `t` is a reset, an LCFG of layer `l`, a successful GEOSET of it, or a REGWR to one
of its geometry slots (0 to 5, 9). -/
def Disturbs (l : BitVec 4) (s t : State) : Prop :=
  (∃ rest, s.pending = .reset :: rest) ∨
  ∃ w, commandOf s = some w ∧
    (decode s.params.nlayers w = .ok (.lcfg l) ∨
     (decode s.params.nlayers w = .ok (.geoset l) ∧ t.status = 0) ∨
     (decode s.params.nlayers w = .ok (.regwr l) ∧ (s.a[0].toNat < 6 ∨ s.a[0].toNat = 9)))

/-- A step that does none of this. -/
def QuietStep (l : BitVec 4) (s t : State) : Prop := step s = .next t ∧ ¬ Disturbs l s t

end Sys2Proof.Claims

open Sys2Proof Sys2Proof.Machine Sys2Proof.Safety Sys2Proof.Claims

/-! ## The command port -/

/-- A step runs the decoded command: `CMD` holds the word, and the rest of the step is the operation
(10_state R13, 30_encoding R62); also when the word arrives by the write half of a `MOV` (R71). -/
def Obligations.StepRunsTheDecodedCommand : Prop :=
  ∀ (s : State) (w : Word) (rest : List HostAction) (i : Instr),
    decode s.params.nlayers w = .ok i →
    (Issues s w rest → step s = exec i { s with pending := rest, cmd := w }) ∧
    (s.pending = .writeBack 32 0x000 :: rest → s.readData = w →
      step s = exec i { s with pending := rest, cmd := w })

/-- The `CMD` register (10_state R13): 0 after reset; a host write stores the word and executes it to
completion before any later access; a host read returns the last word written and has no side effect. -/
def Obligations.CommandRegisterHoldsTheLastWord : Prop :=
  State.reset.cmd = 0 ∧
  (∀ (s : State) (w : Word) (rest : List HostAction), Issues s w rest →
    (∃ t, step s = .next t ∧ t.cmd = w ∧ t.pending = rest) ∧
    (∀ i, decode s.params.nlayers w = .ok i → step s = exec i { s with pending := rest, cmd := w }) ∧
    (∀ e, decode s.params.nlayers w = .error e →
      step s = .next { s with pending := rest, cmd := w, status := 8 })) ∧
  (∀ (s : State) (rest : List HostAction), s.pending = .read 32 0x000 :: rest →
    step s = .next { s with pending := rest, readData := s.cmd }) ∧
  (∀ w : Word, opField w = w.extractLsb 31 24 ∧ layerField w = w.extractLsb 23 20 ∧
    zeroField w = w.extractLsb 19 5 ∧ fmtField w = w.extractLsb 4 0)

/-- With no host action pending the block is idle and keeps all its state (60_exceptions R184); that a step
then answers the same state is the model's choice (assumption log 4). -/
def Obligations.IdleBlockKeepsItsState : Prop :=
  ∀ s : State, s.pending = [] → ∀ k, Host.Core.run core k s = .next s

/-- Every command word that selects no row, or names a layer the block does not have, is illegal and does
nothing but raise `IllegalCommand`; every other word is an operation (30_encoding R62, R63). -/
def Obligations.IllegalWordDoesNothingButRaise : Prop :=
  ∀ (s : State) (w : Word) (rest : List HostAction), Issues s w rest →
    ((¬ MatchesRow w ∨ LayerOutOfRange s.params.nlayers w) →
      step s = .next { s with pending := rest, cmd := w, status := 8 }) ∧
    (MatchesRow w ∧ ¬ LayerOutOfRange s.params.nlayers w →
      ∃ i, decode s.params.nlayers w = .ok i ∧ encode i = w)

/-- Decode and encode agree in both directions, for every operation at every value of its fields: no bit of
an encoding is dropped and no word has two meanings (30_encoding R60, R61, R62). -/
def Obligations.DecodeAndEncodeAgree : Prop :=
  (∀ (n : Nat) (i : Instr), i.wf n = true → decode n (encode i) = .ok i) ∧
  (∀ (n : Nat) (i : Instr), i.wf n = false → decode n (encode i) = .error .layerOutOfRange) ∧
  (∀ (n : Nat) (w : Word) (i : Instr), decode n w = .ok i → encode i = w ∧ i.wf n = true)

/-- No two rows of the opcode map can match the same word (30_encoding R62). -/
def Obligations.OpcodeRowsNeverOverlap : Prop :=
  opcodeTable.Pairwise fun p q => ∀ w : Word, ¬ (p.selects w = true ∧ q.selects w = true)

/-- Words written out from the encoding of 30_encoding R60 and R61, one of each unit. -/
def Obligations.SampleWordsDecode : Prop :=
  decode 2 0x01000000 = .ok .fmtres ∧ decode 2 0x02100000 = .ok (.lcfg 1) ∧
  decode 2 0x11000000 = .ok .yuv2rgb ∧ decode 2 0x18000006 = .ok (.alpha2hw 6) ∧
  decode 2 0x22000003 = .ok (.clutenc 3) ∧ decode 2 0x30100000 = .ok (.geoset 1) ∧
  decode 2 0x39000000 = .ok (.regwr 0) ∧ decode 2 0x00000000 = .error .noRow

/-! ## Errors -/

/-- Every operation ends in a next state, in every state: no error stops the block (60_exceptions R174). -/
def Obligations.EveryOperationCompletes : Prop :=
  ∀ (i : Instr) (s : State), ∃ t, exec i s = .next t ∧ t.cmd = s.cmd ∧ t.pending = s.pending

/-- A failing command has changed `CMD` and `STATUS` and nothing else (60_exceptions R173). -/
def Obligations.FailingCommandChangesOnlyStatus : Prop :=
  ∀ (s t : State) (w : Word) (rest : List HostAction), Issues s w rest → step s = .next t →
    t.status ≠ 0 → t = { s with pending := rest, cmd := w, status := t.status }

/-- The error a command reports is that of the first check that fails, in the order of 60_exceptions R172,
for every command word and every state, with the codes of R171; `STATUS` is 0 when no check fails. -/
def Obligations.FirstFailingCheckDeterminesTheCode : Prop :=
  ∀ (s : State) (w : Word) (rest : List HostAction), Issues s w rest →
    ∃ t, step s = .next t ∧ t.status = BitVec.ofNat 32 (firstError s w)

/-- An operation with a layer field fails with `IllegalCommand` when executed for a layer the block does not have.
That `exec` answers so is the model's reading of R172 step 2 (assumption log 19): decoding never yields such a
term (R62). -/
def Obligations.AbsentLayerFailsEveryLayerOperation : Prop :=
  ∀ (s : State) (l : BitVec 4), s.params.nlayers ≤ l.toNat →
    FailsWith (.lcfg l) s 8 ∧ FailsWith (.geoset l) s 8 ∧ FailsWith (.geoget l) s 8 ∧
    FailsWith (.regrd l) s 8 ∧ FailsWith (.regwr l) s 8

/-- `STATUS` (10_state R14, 30_encoding R70): reset 0, read-only for the host; every command overwrites it with
its own code, one of the nine, 0 when no check fails, with 0 in bits 31:4, whatever it held before. -/
def Obligations.StatusRegisterIsNotSticky : Prop :=
  State.reset.status = 0 ∧
  (∀ (s : State) (v : Word) (rest : List HostAction), s.pending = .write 32 0x004 v :: rest →
    step s = .next { s with pending := rest }) ∧
  (∀ (s : State) (rest : List HostAction), s.pending = .read 32 0x004 :: rest →
    step s = .next { s with pending := rest, readData := s.status }) ∧
  (∀ (s : State) (w : Word) (rest : List HostAction), Issues s w rest →
    (∃ t, step s = .next t ∧ t.status = BitVec.ofNat 32 (firstError s w) ∧ t.status.toNat ≤ 8) ∧
    ∀ v : Word, step { s with status := v } = step s)

/-- Issuing a failed operation again with the same inputs fails again with the same code and changes nothing
more (60_exceptions R175). -/
def Obligations.ReissuedFailureFailsAgain : Prop :=
  ∀ (i : Instr) (s t : State), exec i s = .next t → t.status ≠ 0 → exec i t = .next t

/-! ## Frames -/

/-- No operation writes an operand register, `EBUF`, `CMD`, the parameters or anything of the host's, and the
event history only grows (10_state R11, R16, R25; 20_memory R54). -/
def Obligations.OperationsNeverWriteTheHostsSide : Prop :=
  ∀ (i : Instr) (s t : State), exec i s = .next t →
    t.a = s.a ∧ t.ebuf = s.ebuf ∧ t.cmd = s.cmd ∧ t.params = s.params ∧ t.pending = s.pending ∧
    t.readData = s.readData ∧ s.events <+: t.events

/-- A result register that an operation does not name keeps its value (30_encoding R64, 10_state R11). -/
def Obligations.UnnamedResultsKeepTheirValue : Prop :=
  ∀ (i : Instr) (s t : State), exec i s = .next t → ∀ k : Fin 8, k ∉ writtenResults i → t.r[k] = s.r[k]

/-- An operand register that an operation does not name cannot influence anything it does (10_state R25,
30_encoding R64): two states that agree on the rest take corresponding steps. -/
def Obligations.UnnamedOperandsHaveNoInfluence : Prop :=
  ∀ (i : Instr) (s t : State) (a' : Vector Word 8), (∀ k ∈ namedOperands i, a'[k] = s.a[k]) →
    exec i s = .next t → exec i { s with a := a' } = .next { t with a := a' }

/-- Seven operations change nothing but result registers and `STATUS` (30_encoding R64): no buffer, record or
collaborator access. -/
def Obligations.PureOperationsTouchOnlyResultsAndStatus : Prop :=
  ∀ (i : Instr) (s t : State), IsPure i → exec i s = .next t → t = { s with r := t.r, status := t.status }

/-- The frame of the six operations with further effects (30_encoding R64): what each may change, that only
LCFG and GEOSET write a layer record and only their own, and that only slots of the named layer are stored
to. -/
def Obligations.FramesOfTheOtherOperations : Prop :=
  (∀ (s t : State) (l : BitVec 4), exec (.lcfg l) s = .next t →
    t = { s with r := t.r, status := t.status, layers := t.layers } ∧
    ∀ l' : BitVec 4, l' ≠ l → t.layer l' = s.layer l') ∧
  (∀ (s t : State) (f : BitVec 5), exec (.clutenc f) s = .next t →
    t = { s with cbuf := t.cbuf, status := t.status }) ∧
  (∀ (s t : State) (l : BitVec 4), exec (.geoset l) s = .next t →
    t = { s with r := t.r, status := t.status, layers := t.layers, hw := t.hw, events := t.events } ∧
    (∀ l' : BitVec 4, l' ≠ l → t.layer l' = s.layer l') ∧
    ∀ k, (∀ w ∈ geometryWrites s l, k ≠ slotKey l w.1) → t.hw.read k = s.hw.read k) ∧
  (∀ (s t : State) (l : BitVec 4), exec (.geoget l) s = .next t →
    t = { s with r := t.r, status := t.status, events := t.events, answers := t.answers,
                 freeCount := t.freeCount }) ∧
  (∀ (s t : State) (l : BitVec 4), exec (.regrd l) s = .next t →
    t = { s with r := t.r, status := t.status, events := t.events, answers := t.answers,
                 freeCount := t.freeCount }) ∧
  (∀ (s t : State) (l : BitVec 4), exec (.regwr l) s = .next t →
    t = { s with status := t.status, hw := t.hw, events := t.events } ∧
    ∀ k, k ≠ Config.layerNregs * l.toNat + s.a[0].toNat → t.hw.read k = s.hw.read k)

/-! ## FMT -/

/-- FMTRES (40_catalog R84, with R83 and R68): the one row whose key equals `A0..A3` is returned as its
descriptor image; no row is `UnsupportedFormat`. -/
def Obligations.FmtresReturnsTheDescriptor : Prop :=
  encode .fmtres = 0x01000000 ∧
  ∀ s : State, paramsWf s.params = true →
    ((∀ id : Fin 24, ¬ RowMatches s.params.catalog[id] s) → FailsWith .fmtres s 1) ∧
    (∀ id : Fin 24, RowMatches s.params.catalog[id] s →
      ∃ t, exec .fmtres s = .next t ∧ t = { s with r := t.r, status := 0 } ∧
        t.r[0].toNat = id ∧ t.r[1].toNat = s.params.catalog[id].bpp ∧
        IsFieldImage t.r[2] s.params.catalog[id].ch0 ∧ IsFieldImage t.r[3] s.params.catalog[id].ch1 ∧
        IsFieldImage t.r[4] s.params.catalog[id].ch2 ∧ IsFieldImage t.r[5] s.params.catalog[id].ch3 ∧
        IsAttributes t.r[6] s.params.catalog[id] ∧ t.r[7] = s.r[7])

/-- LCFG (40_catalog R86) of an existing layer: the checks in their order, and on success the whole layer record,
with the initial geometry `{0, 0, VISW, VISH, 0, 0}`; no other record and no display-controller register changes. -/
def Obligations.LcfgConfiguresTheLayer : Prop :=
  ∀ l : BitVec 4, encode (.lcfg l) = layerWord 0x02000000 l ∧
  ∀ s : State, paramsWf s.params = true →
    (l.toNat < s.params.nlayers → (∀ id : Fin 24, ¬ RowMatches s.params.catalog[id] s) →
      FailsWith (.lcfg l) s 1) ∧
    (∀ id : Fin 24, l.toNat < s.params.nlayers → RowMatches s.params.catalog[id] s → BadSizes s →
      FailsWith (.lcfg l) s 4) ∧
    (∀ id : Fin 24, l.toNat < s.params.nlayers → RowMatches s.params.catalog[id] s → ¬ BadSizes s →
      ∃ t, exec (.lcfg l) s = .next t ∧
        t = { s with r := t.r, status := 0, layers := t.layers } ∧
        (∀ l' : BitVec 4, l' ≠ l → t.layer l' = s.layer l') ∧
        (t.layer l).valid = true ∧ (t.layer l).fmt = id ∧
        (t.layer l).visw.toNat = reqVisw s ∧ (t.layer l).vish.toNat = reqVish s ∧
        (t.layer l).virtw.toNat = reqVirtw s ∧ (t.layer l).virth.toNat = reqVirth s ∧
        (t.layer l).fbbase = s.a[6] ∧
        (t.layer l).geo = ⟨0, 0, BitVec.ofNat 32 (reqVisw s), BitVec.ofNat 32 (reqVish s), 0, 0⟩ ∧
        t.r[0].toNat = id ∧ t.r[1].toNat = s.params.catalog[id].bpp ∧
        ∀ k : Fin 8, 2 ≤ k.val → t.r[k] = s.r[k])

/-! ## CSC -/

/-- RGB2YUV (41_colorspace R100, R102): the fixed-point formula over the low 8 bits of `A1..A3`, truncating
division, each output kept in 0..255; it always succeeds and writes `R1..R3` only. -/
def Obligations.Rgb2yuvComputesTheForwardFormula : Prop :=
  encode .rgb2yuv = 0x10000000 ∧
  ∀ s : State,
    let r := s.a[1].toNat % 256
    let g := s.a[2].toNat % 256
    let b := s.a[3].toNat % 256
    exec .rgb2yuv s = .next { s with
      status := 0
      r := ((s.r.set 1 (clamp8 (quotientY (fwdInForce s.params) r g b))).set 2
        (clamp8 (quotientU (fwdInForce s.params) r g b))).set 3
        (clamp8 (quotientV (fwdInForce s.params) r g b)) }

/-- YUV2RGB (41_colorspace R105): the affine reverse map of R103 with the device's reverse record, whose
normalisation constant R103 has positive; it always succeeds and writes `R1..R3` only. -/
def Obligations.Yuv2rgbComputesTheReverseFormula : Prop :=
  encode .yuv2rgb = 0x11000000 ∧
  ∀ s : State, 0 < (revInForce s.params).norm.toInt →
    let y := s.a[1].toNat % 256
    let u := s.a[2].toNat % 256
    let v := s.a[3].toNat % 256
    let c := revInForce s.params
    exec .yuv2rgb s = .next { s with
      status := 0
      r := ((s.r.set 1 (clamp8 (quotientRev c c.red y u v))).set 2
        (clamp8 (quotientRev c c.green y u v))).set 3 (clamp8 (quotientRev c c.blue y u v)) }

/-- Under the default presets saturation never changes a forward value, and the outputs stay in the ranges
that 41_colorspace R101 gives; a claim about the default coefficients (assumption log 12). -/
def Obligations.DefaultForwardPresetsNeverSaturate : Prop :=
  ∀ r g b : Nat, r < 256 → g < 256 → b < 256 →
    (((forward defaultFwdStandard r g b).p : Int) = quotientY defaultFwdStandard r g b ∧
     ((forward defaultFwdStandard r g b).q : Int) = quotientU defaultFwdStandard r g b ∧
     ((forward defaultFwdStandard r g b).t : Int) = quotientV defaultFwdStandard r g b) ∧
    (16 ≤ quotientY defaultFwdItu656 r g b ∧ quotientY defaultFwdItu656 r g b ≤ 235 ∧
     16 ≤ quotientU defaultFwdItu656 r g b ∧ quotientU defaultFwdItu656 r g b ≤ 240 ∧
     15 ≤ quotientV defaultFwdItu656 r g b ∧ quotientV defaultFwdItu656 r g b ≤ 240)

/-! ## ALN -/

/-- ALPHA2HW (42_alpha R111, R113): the two errors in their order; otherwise
`(A0[9:0] * (2^n - 1)) div 1023` with the format's own width, into `R0` only. -/
def Obligations.Alpha2hwScalesDown : Prop :=
  ∀ f : BitVec 5, encode (.alpha2hw f) = fmtWord 0x18000000 f ∧
  ∀ s : State,
    (24 ≤ f.toNat → FailsWith (.alpha2hw f) s 1) ∧
    (∀ h : f.toNat < 24, s.params.catalog[f.toNat].tm ≠ .layer → FailsWith (.alpha2hw f) s 2) ∧
    (∀ h : f.toNat < 24, s.params.catalog[f.toNat].tm = .layer →
      exec (.alpha2hw f) s = .next { s with
        status := 0
        r := s.r.set 0 (BitVec.ofNat 32
          (s.a[0].toNat % 1024 * (2 ^ s.params.catalog[f.toNat].alphaBits - 1) / 1023)) })

/-- HW2ALPHA (42_alpha R112, R114): the two errors in their order; otherwise the inverse with its `+1` at 6
bits and at no other width, clamped to 1023, into `R0` only. -/
def Obligations.Hw2alphaScalesUp : Prop :=
  ∀ f : BitVec 5, encode (.hw2alpha f) = fmtWord 0x19000000 f ∧
  ∀ s : State,
    (24 ≤ f.toNat → FailsWith (.hw2alpha f) s 1) ∧
    (∀ h : f.toNat < 24, s.params.catalog[f.toNat].tm ≠ .layer → FailsWith (.hw2alpha f) s 2) ∧
    (∀ h : f.toNat < 24, s.params.catalog[f.toNat].tm = .layer →
      let n := s.params.catalog[f.toNat].alphaBits
      exec (.hw2alpha f) s = .next { s with
        status := 0
        r := s.r.set 0 (BitVec.ofNat 32
          (min 1023 ((s.a[0].toNat % 2 ^ n + 1) * 1023 / 2 ^ n + (if n = 6 then 1 else 0)))) })

/-- Every raw alpha survives HW2ALPHA followed by ALPHA2HW of the same format (a property 42_alpha R112
derives), for every well-formed parameter record. -/
def Obligations.RawAlphaSurvivesTheRoundTrip : Prop :=
  ∀ (s t : State) (f : BitVec 5) (h : f.toNat < 24), paramsWf s.params = true →
    s.params.catalog[f.toNat].tm = .layer → exec (.hw2alpha f) s = .next t →
    ∃ u, exec (.alpha2hw f) (t.setOperand 0 t.r[0]) = .next u ∧ u.status = 0 ∧
      u.r[0].toNat = s.a[0].toNat % 2 ^ s.params.catalog[f.toNat].alphaBits

/-- A normalised alpha comes back from ALPHA2HW and HW2ALPHA within 127, 16, 3 and 0 at 3, 6, 8 and 10 bits,
full scale goes to full scale, and the forward function is monotone (properties of 42_alpha R111, R112). -/
def Obligations.NormalisedAlphaReturnsWithinBounds : Prop :=
  ∀ n e : Nat, (n, e) ∈ [(3, 127), (6, 16), (8, 3), (10, 0)] →
    toHw 0 n = 0 ∧ toHw 1023 n = 2 ^ n - 1 ∧ fromHw (2 ^ n - 1) n = 1023 ∧
    (∀ a, a ≤ 1023 → fromHw (toHw a n) n ≤ a + e ∧ a ≤ fromHw (toHw a n) n + e) ∧
    (∀ a b, a ≤ b → toHw a n ≤ toHw b n)

/-! ## PXC -/

/-- PXENC (43_pixel_codec R120, R122, R125): `fmt` of 24 or more is `UnsupportedFormat`; otherwise `R0` is
the sum of the truncated channels at their offsets, a `conv` row converting its colour channels first. -/
def Obligations.PxencPacksTheChannels : Prop :=
  ∀ f : BitVec 5, encode (.pxenc f) = fmtWord 0x20000000 f ∧
  ∀ s : State,
    (24 ≤ f.toNat → FailsWith (.pxenc f) s 1) ∧
    (∀ h : f.toNat < 24, exec (.pxenc f) s = .next { s with
      status := 0
      r := s.r.set 0 (storedWord s.params s.params.catalog[f.toNat]
        s.a[0].toNat s.a[1].toNat s.a[2].toNat s.a[3].toNat) })

/-- The `RawColorWord` of PXENC holds every channel at its own bits, truncated and not saturated, and 0 in
every bit that belongs to no channel (30_encoding R69, 43_pixel_codec R120). -/
def Obligations.PackedWordHoldsEveryChannel : Prop :=
  ∀ (s : State) (f : BitVec 5) (h : f.toNat < 24), paramsWf s.params = true →
    s.params.catalog[f.toNat].conv = false →
    ∃ t, exec (.pxenc f) s = .next t ∧
      channelOf s.params.catalog[f.toNat].ch0 t.r[0] = s.a[0].toNat % 2 ^ s.params.catalog[f.toNat].ch0.length ∧
      channelOf s.params.catalog[f.toNat].ch1 t.r[0] = s.a[1].toNat % 2 ^ s.params.catalog[f.toNat].ch1.length ∧
      channelOf s.params.catalog[f.toNat].ch2 t.r[0] = s.a[2].toNat % 2 ^ s.params.catalog[f.toNat].ch2.length ∧
      channelOf s.params.catalog[f.toNat].ch3 t.r[0] = s.a[3].toNat % 2 ^ s.params.catalog[f.toNat].ch3.length ∧
      ∀ j, OutsideFields s.params.catalog[f.toNat] j → t.r[0].getLsbD j = false

/-- PXDEC (43_pixel_codec R121, R123): `fmt` of 24 or more is `UnsupportedFormat`; otherwise `R0..R3` are the
four channels of `A0`, an absent one 0; nothing is converted. -/
def Obligations.PxdecUnpacksTheChannels : Prop :=
  ∀ f : BitVec 5, encode (.pxdec f) = fmtWord 0x21000000 f ∧
  ∀ s : State,
    (24 ≤ f.toNat → FailsWith (.pxdec f) s 1) ∧
    (∀ h : f.toNat < 24, exec (.pxdec f) s = .next { s with
      status := 0
      r := (((s.r.set 0 (BitVec.ofNat 32 (channelOf s.params.catalog[f.toNat].ch0 s.a[0]))).set 1
        (BitVec.ofNat 32 (channelOf s.params.catalog[f.toNat].ch1 s.a[0]))).set 2
        (BitVec.ofNat 32 (channelOf s.params.catalog[f.toNat].ch2 s.a[0]))).set 3
        (BitVec.ofNat 32 (channelOf s.params.catalog[f.toNat].ch3 s.a[0])) })

/-- The round trip of the codec (43_pixel_codec R126). For every well-formed row `unpack` of `pack` truncates
each channel and `pack` of `unpack` keeps exactly the field bits; PXDEC of the word of PXENC returns the channels
truncated to their fields, the colour channels of a row with `conv` as the converter stored them. -/
def Obligations.CodecRoundTripIsLossless : Prop :=
  (∀ (F : PixelFormat) (c0 c1 c2 c3 : Nat), formatWf F = true →
    unpack F (pack F ⟨c0, c1, c2, c3⟩) = ⟨c0 % 2 ^ F.ch0.length, c1 % 2 ^ F.ch1.length,
      c2 % 2 ^ F.ch2.length, c3 % 2 ^ F.ch3.length⟩) ∧
  (∀ (F : PixelFormat) (raw : Nat), formatWf F = true → raw < 2 ^ 32 →
    pack F (unpack F raw) = raw &&& fieldMask F) ∧
  (∀ (s t : State) (f : BitVec 5) (h : f.toNat < 24), paramsWf s.params = true →
    exec (.pxenc f) s = .next t →
    let F := s.params.catalog[f.toNat]
    ∃ u, exec (.pxdec f) (t.setOperand 0 t.r[0]) = .next u ∧ u.status = 0 ∧
      channelResults u = fitted F (prepared s.params F s.a[0].toNat s.a[1].toNat s.a[2].toNat s.a[3].toNat))

/-- Row 3 of the default catalog, C8_AYUV8888, gives back `(c0 mod 256, forward(...))` and not the inputs
(43_pixel_codec R126). A claim about the default catalog, whose layouts are assumption log 12's. -/
def Obligations.DefaultAyuvRowGivesBackTheConvertedColour : Prop :=
  ∀ s t : State, paramsWf s.params = true → s.params.catalog = defaultCatalog → exec (.pxenc 3) s = .next t →
    let c := fwdInForce s.params
    let r := s.a[1].toNat % 256
    let g := s.a[2].toNat % 256
    let b := s.a[3].toNat % 256
    ∃ u, exec (.pxdec 3) (t.setOperand 0 t.r[0]) = .next u ∧ u.status = 0 ∧
      u.r[0].toNat = s.a[0].toNat % 256 ∧ u.r[1] = clamp8 (quotientY c r g b) ∧
      u.r[2] = clamp8 (quotientU c r g b) ∧ u.r[3] = clamp8 (quotientV c r g b)

/-- CLUTENC (43_pixel_codec R124, with the entry format of 30_encoding R67): the two errors in their order,
the exact sum in the bound; on success word `start + i` of `CBUF` is made from `EBUF[i]` for each `i < count`
and every other word keeps its value. -/
def Obligations.ClutencFillsExactlyTheRange : Prop :=
  ∀ f : BitVec 5, encode (.clutenc f) = fmtWord 0x22000000 f ∧
  ∀ s : State,
    (24 ≤ f.toNat → FailsWith (.clutenc f) s 1) ∧
    (f.toNat < 24 → s.a[0].toNat + s.a[1].toNat > 256 → FailsWith (.clutenc f) s 5) ∧
    (∀ h : f.toNat < 24, s.a[0].toNat + s.a[1].toNat ≤ 256 →
      ∃ t, exec (.clutenc f) s = .next t ∧ t = { s with cbuf := t.cbuf, status := 0 } ∧
        ∀ j : Fin 256,
          (∀ i : Fin 256, i.val < s.a[1].toNat → j.val = s.a[0].toNat + i.val →
            t.cbuf[j] = storedWord s.params s.params.catalog[f.toNat] (s.ebuf[i].toNat / 2 ^ 24)
              (s.ebuf[i].toNat / 2 ^ 16 % 256) (s.ebuf[i].toNat / 2 ^ 8 % 256) (s.ebuf[i].toNat % 256)) ∧
          (j.val < s.a[0].toNat ∨ s.a[0].toNat + s.a[1].toNat ≤ j.val → t.cbuf[j] = s.cbuf[j]))

/-! ## GEO -/

/-- GEOSET (44_geometry R140, R141, R142, R144, R145) of an existing layer: the errors in their order; on
success the clamped geometry in `R0..R5` and in the layer record, the byte offset in `R6`, and exactly the
register writes of the generation in force, in order. The size encoding `size - 1` in them is R143's, which the
spec takes from general knowledge (assumption log 12). -/
def Obligations.GeosetAppliesTheClampedRequest : Prop :=
  ∀ l : BitVec 4, encode (.geoset l) = layerWord 0x30000000 l ∧
  ∀ s : State,
    (l.toNat < s.params.nlayers → (s.layer l).valid = false → FailsWith (.geoset l) s 7) ∧
    (l.toNat < s.params.nlayers → (s.layer l).valid = true → BadPosition s l →
      FailsWith (.geoset l) s 3) ∧
    (l.toNat < s.params.nlayers → (s.layer l).valid = true → ¬ BadPosition s l → EmptyRequest s →
      FailsWith (.geoset l) s 4) ∧
    (l.toNat < s.params.nlayers → (s.layer l).valid = true → ¬ BadPosition s l → ¬ EmptyRequest s →
      ∃ t, exec (.geoset l) s = .next t ∧
        t = { s with r := t.r, status := 0, layers := t.layers, hw := t.hw, events := t.events } ∧
        t.r[0] = s.a[0] ∧ t.r[1] = s.a[1] ∧ t.r[2].toNat = clampedWidth s l ∧
        t.r[3].toNat = clampedHeight s l ∧ t.r[4] = s.a[4] ∧ t.r[5] = s.a[5] ∧
        t.r[6].toNat = exactOffset s l % 2 ^ 32 ∧ t.r[7] = s.r[7] ∧
        t.layer l = { s.layer l with geo := ⟨t.r[0], t.r[1], t.r[2], t.r[3], t.r[4], t.r[5]⟩ } ∧
        (∀ l' : BitVec 4, l' ≠ l → t.layer l' = s.layer l') ∧
        t.events = s.events ++ (geometryWrites s l).map (fun x => .regWrite l x.1 x.2))

/-- The clamped geometry lies inside the visible area (44_geometry R140, R146); the width is even on a 4:2:2
format when above 2; a size becomes 0 only at the far edge; and what fits is kept: the height whole, the width
whole but for bit 0 of a width above 2 on a 4:2:2 format. -/
def Obligations.ClampedGeometryFitsTheVisibleArea : Prop :=
  ∀ (s t : State) (l : BitVec 4), exec (.geoset l) s = .next t → t.status = 0 →
    t.r[0].toNat + t.r[2].toNat ≤ (s.layer l).visw.toNat ∧
    t.r[1].toNat + t.r[3].toNat ≤ (s.layer l).vish.toNat ∧
    ((layerFormat s l).is422 = true → 2 < t.r[2].toNat → t.r[2].toNat % 2 = 0) ∧
    (t.r[2].toNat = 0 ↔ s.a[0].toNat = (s.layer l).visw.toNat) ∧
    (t.r[3].toNat = 0 ↔ s.a[1].toNat = (s.layer l).vish.toNat) ∧
    (s.a[0].toNat + s.a[2].toNat ≤ (s.layer l).visw.toNat →
      ((layerFormat s l).is422 = false ∨ s.a[2].toNat ≤ 2 ∨ s.a[2].toNat % 2 = 0 → t.r[2] = s.a[2]) ∧
      s.a[2].toNat ≤ t.r[2].toNat + 1) ∧
    (s.a[1].toNat + s.a[3].toNat ≤ (s.layer l).vish.toNat → t.r[3] = s.a[3])

/-- GEOGET (44_geometry R148) of an existing layer: not configured is an error; otherwise the slots are read once
each in the stated order, whatever the collaborator answers is decoded, under `GEN = 1` the offsets are the
record's, and the record is not written. Of the model's own fields only those behind free values may change
(assumption log 3); the size decoding is assumption log 12's. -/
def Obligations.GeogetDecodesWhateverIsRead : Prop :=
  ∀ l : BitVec 4, encode (.geoget l) = layerWord 0x31000000 l ∧
  ∀ s : State, l.toNat < s.params.nlayers →
    ((s.layer l).valid = false → FailsWith (.geoget l) s 7) ∧
    ((s.layer l).valid = true →
      ∃ (t : State) (g : GeometryReads), exec (.geoget l) s = .next t ∧ DecodedFrom s t l g)

/-- The encodings of position and size are inverted exactly, at every value GEOSET can write (44_geometry
R143, R149). -/
def Obligations.RegisterEncodingsInvertExactly : Prop :=
  ∀ (V : BitVec 16) (x w : Word),
    decodePosition V (encodePosition V x) = x ∧ decodeSize (encodeSize w) = w ∧
    (x.toNat < V.toNat → (encodePosition V x).toNat = V.toNat - (x.toNat + 1))

/-- GEOGET recovers the last successful GEOSET (44_geometry R149), after any run of host accesses and commands
that holds no LCFG of the layer, no REGWR to its geometry slots, no further successful GEOSET of it and no
reset: all six values under the shadow collaborator and both generations, and under `GEN = 1` the two offsets
whatever the collaborator answers. -/
def Obligations.GeogetRecoversTheLastGeoset : Prop :=
  ∀ (s t u : State) (l : BitVec 4), exec (.geoset l) s = .next t → t.status = 0 →
    Relation.ReflTransGen (QuietStep l) t u →
    ∃ v, exec (.geoget l) u = .next v ∧ v.status = 0 ∧
      (s.params.collab = .shadow → ∀ k : Fin 8, k.val < 6 → v.r[k] = t.r[k]) ∧
      (s.params.gen = .dynamicAddressing → v.r[4] = t.r[4] ∧ v.r[5] = t.r[5])

/-! ## REG -/

/-- REGRD (45_regaccess R160, R161) of an existing layer: a slot of 10 or more, by all 32 bits of `A0`, is refused
without an access; otherwise one `RegRead`, its value unchanged in `R0`, the layer configured or not. Of the
model's own fields only those behind free values may change (assumption log 3). -/
def Obligations.RegrdReadsExactlyOneSlot : Prop :=
  ∀ l : BitVec 4, encode (.regrd l) = layerWord 0x38000000 l ∧
  ∀ s : State, l.toNat < s.params.nlayers →
    (10 ≤ s.a[0].toNat → FailsWith (.regrd l) s 6) ∧
    (∀ c : Slot, s.a[0].toNat = c.number →
      ∃ u v, exec (.regrd l) s = .next u ∧
        u = { s with r := s.r.set 0 v, status := 0, events := s.events ++ [.regRead l c v],
                     answers := u.answers, freeCount := u.freeCount })

/-- REGWR (45_regaccess R160, R162) of an existing layer: a slot of 10 or more is refused without an access;
otherwise one `RegWrite` of `A1` unchanged; no result register and no layer record changes. -/
def Obligations.RegwrWritesExactlyOneSlot : Prop :=
  ∀ l : BitVec 4, encode (.regwr l) = layerWord 0x39000000 l ∧
  ∀ s : State, l.toNat < s.params.nlayers →
    (10 ≤ s.a[0].toNat → FailsWith (.regwr l) s 6) ∧
    (∀ c : Slot, s.a[0].toNat = c.number →
      ∃ u, exec (.regwr l) s = .next u ∧
        u = { s with status := 0, events := s.events ++ [.regWrite l c s.a[1]], hw := u.hw })

/-- Where a `RegWrite` lands (20_memory R46, R47): under the shadow policy the slots written hold the words
written, and every other word of the array is as before, also another layer's. The words of a GEOSET are those of
44_geometry R143 to R145, the size encoding `size - 1` among them being assumption log 12's. The keys are
assumption log 8's; that the oracle policy leaves the array unchanged is assumption log 9's. -/
def Obligations.RegWritesLandInTheirOwnSlots : Prop :=
  (∀ (s t : State) (l : BitVec 4), exec (.geoset l) s = .next t → t.status = 0 →
    (s.params.collab = .shadow → ∀ x ∈ geometryWrites s l, t.hw.read (slotKey l x.1) = some x.2) ∧
    (s.params.collab = .oracle → t.hw = s.hw) ∧
    ∀ k, (∀ x ∈ geometryWrites s l, k ≠ slotKey l x.1) → t.hw.read k = s.hw.read k) ∧
  (∀ (s t : State) (l : BitVec 4) (c : Slot), exec (.regwr l) s = .next t → t.status = 0 →
    s.a[0].toNat = c.number →
    (s.params.collab = .shadow → t.hw.read (slotKey l c) = some s.a[1]) ∧
    (s.params.collab = .oracle → t.hw = s.hw) ∧
    ∀ k, k ≠ slotKey l c → t.hw.read k = s.hw.read k)

/-- What a `RegRead` returns (20_memory R47): GEOGET decodes and REGRD returns the words that the policy in force
answers, the last written ones or the oracle's next ones. That the oracle's answers are the list `answers`, of
which a read takes the first, is assumption log 3's; the size decoding of GEOGET (44_geometry R143), the word read
plus 1, is assumption log 12's. -/
def Obligations.ReadsReturnThePolicysAnswers : Prop :=
  (∀ (s : State) (l : BitVec 4) (g : GeometryReads), l.toNat < s.params.nlayers → (s.layer l).valid = true →
    Answers s l (g.reads s) →
    ∃ t, exec (.geoget l) s = .next t ∧ DecodedFrom s t l g ∧
      t.answers = answersAfter s (g.reads s).length ∧ t.freeCount = s.freeCount) ∧
  (∀ (s : State) (l : BitVec 4) (c : Slot) (v : Word), l.toNat < s.params.nlayers → s.a[0].toNat = c.number →
    Answers s l [(c, v)] →
    exec (.regrd l) s = .next { s with
      r := s.r.set 0 v
      status := 0
      events := s.events ++ [.regRead l c v]
      answers := answersAfter s 1 })

/-- Under the shadow policy a REGRD returns the word last written to its slot by any `RegWrite`, of a REGWR or of a
GEOSET, after any run of steps without another `RegWrite` to that slot (20_memory R47). Where the run holds a reset
of the block, that the array keeps its words rests on 70_reset R190, by which a reset does not touch the display
controller's registers, and on assumption log 8, the model's choice: R47 calls the array unspecified at reset. -/
def Obligations.ShadowReadReturnsTheLastWrite : Prop :=
  ∀ (s t u : State) (l : BitVec 4) (c : Slot) (w : Word) (before later : List Event),
    s.params.collab = .shadow → step s = .next t →
    t.events = s.events ++ before ++ .regWrite l c w :: later → (∀ v, Event.regWrite l c v ∉ later) →
    Relation.ReflTransGen (LeavesSlot l c) t u → u.a[0].toNat = c.number →
    ∃ v, exec (.regrd l) u = .next v ∧ v.status = 0 ∧ v.r[0] = w

/-! ## The host register space -/

/-- Host writes (20_memory R41), plain or the write half of a `MOV` (30_encoding R71): `A0..A7` and `EBUF` store
the value and nothing else changes; `STATUS`, `CONFIG`, `R0..R7` and `CBUF` ignore it. -/
def Obligations.HostWritesStoreOnlyOperandsAndEntries : Prop :=
  ∀ (s : State) (offset : Nat) (v : Word) (rest : List HostAction), HostWrites s offset v rest →
    (∀ i : Fin 8, offset = 0x020 + 4 * i.val → step s = .next { s with pending := rest, a := s.a.set i v }) ∧
    (∀ i : Fin 256, offset = 0x400 + 4 * i.val →
      step s = .next { s with pending := rest, ebuf := s.ebuf.set i v }) ∧
    (offset = 0x004 ∨ offset = 0x008 ∨ (∃ i : Fin 8, offset = 0x040 + 4 * i.val) ∨
      (∃ i : Fin 256, offset = 0x800 + 4 * i.val) → step s = .next { s with pending := rest })

/-- Host reads (20_memory R41): each mapped register returns its current value and no read has a side
effect. -/
def Obligations.HostReadsReturnCurrentValues : Prop :=
  ∀ (s : State) (offset : Nat) (rest : List HostAction), s.pending = .read 32 offset :: rest →
    (offset = 0x000 → step s = .next { s with pending := rest, readData := s.cmd }) ∧
    (offset = 0x004 → step s = .next { s with pending := rest, readData := s.status }) ∧
    (offset = 0x008 → step s = .next { s with pending := rest, readData := configWord s.params }) ∧
    (∀ i : Fin 8, offset = 0x020 + 4 * i.val → step s = .next { s with pending := rest, readData := s.a[i] }) ∧
    (∀ i : Fin 8, offset = 0x040 + 4 * i.val → step s = .next { s with pending := rest, readData := s.r[i] }) ∧
    (∀ i : Fin 256, offset = 0x400 + 4 * i.val →
      step s = .next { s with pending := rest, readData := s.ebuf[i] }) ∧
    (∀ i : Fin 256, offset = 0x800 + 4 * i.val →
      step s = .next { s with pending := rest, readData := s.cbuf[i] })

/-- `CONFIG` (10_state R15): the parameter image, and the parameters it shows never change. -/
def Obligations.ConfigShowsTheImmutableParameters : Prop :=
  (∀ p : Params, paramsWf p = true →
    (configWord p).toNat % 2 = (if p.profile = .standard then 0 else 1) ∧
    (configWord p).toNat / 2 % 2 = (if p.gen = .offsetRegisters then 0 else 1) ∧
    (configWord p).toNat / 4 % 4 = 0 ∧ (configWord p).toNat / 16 % 16 = p.nlayers - 1 ∧
    (configWord p).toNat / 256 = 0) ∧
  (∀ (s : State) (rest : List HostAction), s.pending = .read 32 0x008 :: rest →
    step s = .next { s with pending := rest, readData := configWord s.params }) ∧
  (∀ (s : State) (v : Word) (rest : List HostAction), s.pending = .write 32 0x008 v :: rest →
    step s = .next { s with pending := rest }) ∧
  (∀ s t : State, step s = .next t → t.params = s.params)

/-- Reserved offsets (20_memory R53): a read returns an unspecified value, which may be any word, and a write,
plain or the write half of a `MOV`, has no effect; an access at 0xC00 or above is not an access to this block.
The model's choices in it: the value read is the next of `answers`, or a free one (assumption logs 3 and 11), and
the access at 0xC00 or above is refused (assumption log 10). -/
def Obligations.ReservedOffsetsReadAnythingAndIgnoreWrites : Prop :=
  ∀ (s : State) (offset : Nat) (v : Word) (rest : List HostAction),
    (offset % 4 = 0 → (0x00C ≤ offset ∧ offset ≤ 0x01C) ∨ (0x060 ≤ offset ∧ offset ≤ 0x3FC) →
      (HostWrites s offset v rest → step s = .next { s with pending := rest }) ∧
      (∀ more, s.pending = .read 32 offset :: rest → s.answers = v :: more →
        step s = .next { s with pending := rest, readData := v, answers := more }) ∧
      (s.pending = .read 32 offset :: rest → ∃ t, step s = .next t ∧
        t = { s with pending := rest, readData := t.readData, answers := t.answers,
                     freeCount := t.freeCount })) ∧
    (offset % 4 = 0 → 0xC00 ≤ offset →
      (HostWrites s offset v rest → step s = .refused (.outsideBlock offset)) ∧
      (s.pending = .read 32 offset :: rest → step s = .refused (.outsideBlock offset)))

/-- A host access that is not 32 bits wide, or not at a multiple of 4, is outside the contract and refused
(20_memory R42). The two names, and that a wrong width is named before a misalignment, are the model's choice
(assumption log 10). -/
def Obligations.NarrowOrMisalignedAccessIsRefused : Prop :=
  ∀ (s : State) (width offset : Nat) (v : Word) (rest : List HostAction),
    (s.pending = .write width offset v :: rest ∨ s.pending = .read width offset :: rest ∨
      s.pending = .writeBack width offset :: rest) →
    (width ≠ 32 → step s = .refused (.accessWidth width)) ∧
    (width = 32 → offset % 4 ≠ 0 → step s = .refused (.misalignedAccess offset))

/-- A host that keeps to the contract never stops: from every state, however long it runs, each step answers
a next state (60_exceptions R174, 70_reset R199). -/
def Obligations.HostInsideTheContractNeverStops : Prop :=
  ∀ s : State, HostInContract s → ∀ k, ∃ t, Host.Core.run core k s = .next t ∧ HostInContract t

/-! ## Reset, invariant, history -/

/-- Power-on (10_state R24): `CMD = 0`, `STATUS = 0`, no layer valid, and every other register, buffer word and
record field holds whatever the draw says. `State.reset` is the draw of zeros under the default parameters, the
model's choice (assumption logs 1 and 2). -/
def Obligations.ResetLeavesTheStatedValues : Prop :=
  (∀ (p : Params) (d : ResetDraw),
    (State.powerOn p d).cmd = 0 ∧ (State.powerOn p d).status = 0 ∧
    (∀ l : BitVec 4, (State.powerOn p d).layer l = { d.layers[l.toNat]'l.isLt with valid := false }) ∧
    (State.powerOn p d).a = d.a ∧ (State.powerOn p d).r = d.r ∧
    (State.powerOn p d).ebuf = d.ebuf ∧ (State.powerOn p d).cbuf = d.cbuf) ∧
  State.reset = State.powerOn defaultParams ResetDraw.zero

/-- A reset between two host accesses (70_reset R190): `CMD`, `STATUS` and every `VALID` become 0; the
display controller's registers, the history, the parameters and the host are untouched, and no access is
issued. That the shadow array counts as the display controller's, so that only power-on leaves it unspecified, is
assumption log 8's; that a reset is one of the pending actions is assumption log 20's. -/
def Obligations.ResetEventSparesTheDisplayController : Prop :=
  ∀ (s : State) (rest : List HostAction), s.pending = .reset :: rest →
    ∃ t, step s = .next t ∧ t.cmd = 0 ∧ t.status = 0 ∧ (∀ l : BitVec 4, (t.layer l).valid = false) ∧
      t.hw = s.hw ∧ t.events = s.events ∧ t.params = s.params ∧ t.pending = rest ∧
      t.readData = s.readData ∧ t.answers = s.answers

/-- Every power-on state with legal parameters meets the invariant, whatever the draw; so does
`State.reset`. -/
def Obligations.InvariantHoldsAtReset : Prop :=
  (∀ (p : Params) (d : ResetDraw), paramsWf p = true → Inv (State.powerOn p d)) ∧ Inv State.reset

/-- Every step keeps the invariant: the parameters stay legal, `STATUS` holds one of the nine codes, every
configured layer exists with legal sizes and a geometry inside its visible area, the shadow array stays
canonical, and the collaborator is asked for existing layers only. -/
def Obligations.EveryStepKeepsTheInvariant : Prop :=
  ∀ s t : State, Inv s → step s = .next t → Inv t

/-- The event history only grows, and it grows by `RegRead`s and `RegWrite`s of one layer per step
(20_memory R54, R46). -/
def Obligations.HistoryGrowsByOneLayerAtATime : Prop :=
  ∀ s t : State, step s = .next t → ∃ new, t.events = s.events ++ new ∧ new.length ≤ 6 ∧
    ∃ l : BitVec 4, ∀ e ∈ new, eventLayer e = l

/-! ## Pseudo-instructions -/

/-- SETALPHA (30_encoding R72): when ALPHA2HW succeeds, slot `ALPHA` of the layer gets the raw alpha by one
`RegWrite`; when it fails the host stops with the error and nothing is written. -/
def Obligations.SetAlphaWritesTheRawAlphaOrStops : Prop :=
  ∀ (s : State) (l : BitVec 4) (f : BitVec 5) (alpha : Word) (rest : List HostAction),
    s.pending = setAlpha l f alpha ++ rest → l.toNat < s.params.nlayers →
    (∀ h : f.toNat < 24, s.params.catalog[f.toNat].tm = .layer →
      ∃ t v, Host.Core.run core 7 s = .next t ∧ t.pending = rest ∧ t.status = 0 ∧
        v = BitVec.ofNat 32
          (alpha.toNat % 1024 * (2 ^ s.params.catalog[f.toNat].alphaBits - 1) / 1023) ∧
        t.events = s.events ++ [.regWrite l .alpha v] ∧
        (s.params.collab = .shadow → t.hw.read (slotKey l .alpha) = some v)) ∧
    ((∀ F ∈ s.params.catalog[f.toNat]?, F.tm ≠ .layer) →
      ∃ t, Host.Core.run core 3 s = .next t ∧ t.pending = rest ∧ t.status ≠ 0 ∧ t.events = s.events ∧
        t.hw = s.hw)

/-- GETALPHA (30_encoding R72): one `RegRead` of slot `ALPHA` and nothing written; whatever it returned, written
slot or not and under either policy, is scaled to a normalised alpha with the format's width, or `STATUS` is
`AlphaNotSupported` on a format without layer alpha, `UnsupportedFormat` on one that does not exist. The sequence
as host actions is assumption log 16's, the source of the answer (`Answers`) log 3's. -/
def Obligations.GetAlphaReturnsTheNormalisedAlpha : Prop :=
  ∀ (s : State) (l : BitVec 4) (f : BitVec 5) (rest : List HostAction),
    s.pending = getAlpha l f ++ rest → l.toNat < s.params.nlayers →
    ∃ t v, Host.Core.run core 5 s = .next t ∧ t.pending = rest ∧ t.hw = s.hw ∧
      t.events = s.events ++ [.regRead l .alpha v] ∧ (∀ x, Answers s l [(.alpha, x)] → v = x) ∧
      (∀ h : f.toNat < 24, s.params.catalog[f.toNat].tm = .layer →
        let n := s.params.catalog[f.toNat].alphaBits
        t.status = 0 ∧
        t.r[0].toNat = min 1023 ((v.toNat % 2 ^ n + 1) * 1023 / 2 ^ n + (if n = 6 then 1 else 0))) ∧
      (∀ h : f.toNat < 24, s.params.catalog[f.toNat].tm ≠ .layer → t.status = 2 ∧ t.r[0] = v) ∧
      (24 ≤ f.toNat → t.status = 1 ∧ t.r[0] = v)

/-- SETCLUT (30_encoding R72): the host's entry writes and the CLUTENC leave exactly the encoded entries in
`CBUF[start..]`; a range beyond the table or a format that does not exist is an error and `CBUF` is unchanged.
That the sequence is a list of host actions and ends at the CLUTENC, before the collaborator's copy, is assumption
log 16's. -/
def Obligations.SetClutPopulatesTheEntries : Prop :=
  ∀ (s : State) (f : BitVec 5) (start : Word) (entries : List Word) (rest : List HostAction),
    s.pending = setClut f start entries ++ rest → entries.length ≤ 256 →
    ∃ t, Host.Core.run core (entries.length + 3) s = .next t ∧ t.pending = rest ∧
      (24 ≤ f.toNat → t.status = 1 ∧ t.cbuf = s.cbuf) ∧
      (f.toNat < 24 → start.toNat + entries.length > 256 → t.status = 5 ∧ t.cbuf = s.cbuf) ∧
      (∀ h : f.toNat < 24, start.toNat + entries.length ≤ 256 → t.status = 0 ∧ ∀ j : Fin 256,
        (∀ (i : Nat) (hi : i < entries.length), j.val = start.toNat + i →
          t.cbuf[j] = storedWord s.params s.params.catalog[f.toNat] (entries[i].toNat / 2 ^ 24)
            (entries[i].toNat / 2 ^ 16 % 256) (entries[i].toNat / 2 ^ 8 % 256) (entries[i].toNat % 256)) ∧
        (j.val < start.toNat ∨ start.toNat + entries.length ≤ j.val → t.cbuf[j] = s.cbuf[j]))

/-- SETTRANSP then GETTRANSP (30_encoding R72) returns the transparent colour, each channel truncated to its
field and the colour channels of a row with `conv` as the converter stored them, through the codec, the
passthrough and the shadow collaborator (20_memory R47). The sequences as host actions are assumption log 16's. -/
def Obligations.TransparentColourSurvivesTheRoundTrip : Prop :=
  ∀ (s : State) (l : BitVec 4) (f : BitVec 5) (c0 c1 c2 c3 : Word) (rest : List HostAction)
    (h : f.toNat < 24),
    s.pending = setTransp l f c0 c1 c2 c3 ++ getTransp l f ++ rest → l.toNat < s.params.nlayers →
    s.params.collab = .shadow → paramsWf s.params = true →
    let F := s.params.catalog[f.toNat]
    ∃ t, Host.Core.run core 14 s = .next t ∧ t.pending = rest ∧ t.status = 0 ∧
      channelResults t = fitted F (prepared s.params F c0.toNat c1.toNat c2.toNat c3.toNat)
end

