-- ==== Sys2Proof/Laws/Arith.lean ====
section
/-! SUPPORT. The arithmetic of the units: saturation, bit slices, packing and unpacking, alpha scaling, the
register encodings and the clamps. -/

namespace Sys2Proof.Machine

/-! ### Slices and narrowing -/

@[simp] theorem bits_7_0 (v : Word) : bits 7 0 v = v.toNat % 256 := by simp [bits]
@[simp] theorem bits_9_0 (v : Word) : bits 9 0 v = v.toNat % 1024 := by simp [bits]
@[simp] theorem bits_31_24 (v : Word) : bits 31 24 v = v.toNat / 2 ^ 24 := by
  simp only [bits, Nat.shiftRight_eq_div_pow]; have := v.isLt; omega
@[simp] theorem bits_23_16 (v : Word) : bits 23 16 v = v.toNat / 2 ^ 16 % 256 := by
  simp [bits, Nat.shiftRight_eq_div_pow]
@[simp] theorem bits_15_8 (v : Word) : bits 15 8 v = v.toNat / 2 ^ 8 % 256 := by
  simp [bits, Nat.shiftRight_eq_div_pow]

@[simp] theorem toWord_toNat (n : Nat) : (toWord n).toNat = n % 2 ^ 32 := by simp [toWord]

theorem toWord_toNat_of_lt {n : Nat} (h : n < 2 ^ 32) : (toWord n).toNat = n := by
  rw [toWord_toNat, Nat.mod_eq_of_lt h]

@[simp] theorem lowHalf_toNat (v : Word) : (lowHalf v).toNat = v.toNat % 65536 := by simp [lowHalf]
@[simp] theorem highHalf_toNat (v : Word) : (highHalf v).toNat = v.toNat / 65536 := by
  simp only [highHalf, BitVec.extractLsb'_toNat, Nat.shiftRight_eq_div_pow]
  have := v.isLt
  omega

/-! ### Saturation -/

theorem sat8_cast (v : Int) : (sat8 v : Int) = max 0 (min 255 v) := by
  unfold sat8; split <;> [skip; split] <;> omega

theorem sat8_le (v : Int) : sat8 v ≤ 255 := by
  have := sat8_cast v; omega

theorem toWord_sat8 (v : Int) : toWord (sat8 v) = BitVec.ofInt 32 (max 0 (min 255 v)) := by
  rw [← sat8_cast]; simp [toWord]

/-! ### Packing -/

/-- Two numbers without a common bit add up to their OR. -/
theorem add_eq_or_of_and_eq_zero (n : Nat) : ∀ a b : Nat, a < 2 ^ n → a &&& b = 0 → a + b = a ||| b := by
  induction n with
  | zero => intro a b ha _; have : a = 0 := by omega
            subst this; simp
  | succ n ih =>
    intro a b ha hab
    have h2 : a / 2 &&& b / 2 = 0 := by rw [← Nat.and_div_two, hab]
    have hlt : a / 2 < 2 ^ n := by rw [Nat.pow_succ] at ha; omega
    have h3 := ih _ _ hlt h2
    have h4 : (a ||| b) / 2 = a / 2 ||| b / 2 := Nat.or_div_two
    have h5 : (a &&& b) % 2 = 0 := by rw [hab]
    have h6 := Nat.or_mod_two_eq_one (a := a) (b := b)
    have h7 := Nat.and_mod_two_eq_one (a := a) (b := b)
    omega

/-- Bit `j` of one channel in its field. -/
theorem testBit_packField (F : ChannelField) (v j : Nat) :
    (packField F v).testBit j = (decide (F.offset ≤ j) && decide (j < F.offset + F.length) && v.testBit (j - F.offset)) := by
  simp only [packField, Nat.testBit_shiftLeft, Nat.testBit_mod_two_pow]
  by_cases h : F.offset ≤ j
  · have : (j - F.offset < F.length) ↔ (j < F.offset + F.length) := by omega
    simp [h, this]
  · simp [h]

/-- Bit `j` of one channel out of its field. -/
theorem testBit_unpackField (F : ChannelField) (raw j : Nat) :
    (unpackField F raw).testBit j = (decide (j < F.length) && raw.testBit (F.offset + j)) := by
  simp [unpackField, Nat.testBit_mod_two_pow, Nat.testBit_shiftRight]

/-- Bit `j` of the mask of a field. -/
theorem testBit_fieldBits (F : ChannelField) (j : Nat) :
    (fieldBits F).testBit j = (decide (F.offset ≤ j) && decide (j < F.offset + F.length)) := by
  simp only [fieldBits, Nat.testBit_shiftLeft, Nat.testBit_two_pow_sub_one]
  by_cases h : F.offset ≤ j
  · have : (j - F.offset < F.length) ↔ (j < F.offset + F.length) := by omega
    simp [h, this]
  · simp [h]

theorem packField_lt {F : ChannelField} (h : channelWf F = true) (v : Nat) : packField F v < 2 ^ 32 := by
  simp only [channelWf, Bool.and_eq_true, decide_eq_true_eq] at h
  apply Nat.lt_pow_two_of_testBit
  intro j hj
  rw [testBit_packField]
  have : ¬ j < F.offset + F.length := by omega
  simp [this]

/-- Fields that share no bit hold channels that share no bit. -/
theorem packField_and {F G : ChannelField} (h : fieldsDisjoint F G = true) (u v : Nat) :
    packField F u &&& packField G v = 0 := by
  apply Nat.eq_of_testBit_eq
  intro j
  simp only [fieldsDisjoint, Bool.or_eq_true, beq_iff_eq, decide_eq_true_eq] at h
  rw [Nat.testBit_and, testBit_packField, testBit_packField, Nat.zero_testBit]
  by_cases h1 : F.offset ≤ j ∧ j < F.offset + F.length
  · by_cases h2 : G.offset ≤ j ∧ j < G.offset + G.length
    · omega
    · have : (decide (G.offset ≤ j) && decide (j < G.offset + G.length)) = false := by
        simpa using h2
      simp [this]
  · have : (decide (F.offset ≤ j) && decide (j < F.offset + F.length)) = false := by simpa using h1
    simp [this]

/-- The parts of `formatWf` about the channel fields. -/
theorem formatWf_fields {F : PixelFormat} (h : formatWf F = true) :
    channelWf F.ch0 = true ∧ channelWf F.ch1 = true ∧ channelWf F.ch2 = true ∧ channelWf F.ch3 = true ∧
    fieldsDisjoint F.ch0 F.ch1 = true ∧ fieldsDisjoint F.ch0 F.ch2 = true ∧ fieldsDisjoint F.ch0 F.ch3 = true ∧
    fieldsDisjoint F.ch1 F.ch2 = true ∧ fieldsDisjoint F.ch1 F.ch3 = true ∧ fieldsDisjoint F.ch2 F.ch3 = true := by
  simp only [formatWf, Bool.and_eq_true] at h
  tauto

/-- The sum of the four channels is their OR, since the fields of a row do not overlap (R120). -/
theorem pack_eq_or {F : PixelFormat} (h : formatWf F = true) (v : Channels) :
    pack F v = packField F.ch0 v.c0 ||| packField F.ch1 v.c1 ||| packField F.ch2 v.c2 ||| packField F.ch3 v.c3 := by
  obtain ⟨w0, w1, w2, w3, d01, d02, d03, d12, d13, d23⟩ := formatWf_fields h
  have l0 := packField_lt w0 v.c0
  have l1 := packField_lt w1 v.c1
  have l2 := packField_lt w2 v.c2
  have e1 := add_eq_or_of_and_eq_zero 32 _ _ l0 (packField_and d01 v.c0 v.c1)
  have l01 := Nat.or_lt_two_pow l0 l1
  have e2 := add_eq_or_of_and_eq_zero 32 _ (packField F.ch2 v.c2) l01
    (by rw [Nat.and_or_distrib_right, packField_and d02, packField_and d12]; rfl)
  have l012 := Nat.or_lt_two_pow l01 l2
  have e3 := add_eq_or_of_and_eq_zero 32 _ (packField F.ch3 v.c3) l012
    (by rw [Nat.and_or_distrib_right, Nat.and_or_distrib_right, packField_and d03, packField_and d13,
          packField_and d23]; rfl)
  unfold pack
  rw [e1, e2, e3]

/-- A packed word fits the register (R120). -/
theorem pack_lt {F : PixelFormat} (h : formatWf F = true) (v : Channels) : pack F v < 2 ^ 32 := by
  obtain ⟨w0, w1, w2, w3, -⟩ := formatWf_fields h
  rw [pack_eq_or h]
  exact Nat.or_lt_two_pow (Nat.or_lt_two_pow (Nat.or_lt_two_pow (packField_lt w0 _) (packField_lt w1 _))
    (packField_lt w2 _)) (packField_lt w3 _)

/-- Unpacking one field of an OR of fields gives the truncated channel of that field. -/
theorem unpackField_packField (F : ChannelField) (v : Nat) : unpackField F (packField F v) = v % 2 ^ F.length := by
  apply Nat.eq_of_testBit_eq
  intro j
  rw [testBit_unpackField, testBit_packField, Nat.testBit_mod_two_pow]
  by_cases h : j < F.length <;> simp [h]

theorem unpackField_or (F : ChannelField) (a b : Nat) :
    unpackField F (a ||| b) = unpackField F a ||| unpackField F b := by
  apply Nat.eq_of_testBit_eq
  intro j
  simp only [testBit_unpackField, Nat.testBit_or]
  cases decide (j < F.length) <;> simp

theorem unpackField_disjoint {F G : ChannelField} (h : fieldsDisjoint F G = true) (v : Nat) :
    unpackField F (packField G v) = 0 := by
  apply Nat.eq_of_testBit_eq
  intro j
  simp only [fieldsDisjoint, Bool.or_eq_true, beq_iff_eq, decide_eq_true_eq] at h
  rw [testBit_unpackField, testBit_packField, Nat.zero_testBit]
  by_cases h1 : j < F.length
  · have : (decide (G.offset ≤ F.offset + j) && decide (F.offset + j < G.offset + G.length)) = false := by
      simp; omega
    simp [this]
  · simp [h1]

theorem fieldsDisjoint_comm (F G : ChannelField) : fieldsDisjoint F G = fieldsDisjoint G F := by
  simp only [fieldsDisjoint]
  cases F.length == 0 <;> cases G.length == 0 <;> simp [Bool.or_comm]

/-- Unpacking a packed word truncates each channel to its field (R126). -/
theorem unpack_pack {F : PixelFormat} (h : formatWf F = true) (v : Channels) :
    unpack F (pack F v) = ⟨v.c0 % 2 ^ F.ch0.length, v.c1 % 2 ^ F.ch1.length, v.c2 % 2 ^ F.ch2.length,
      v.c3 % 2 ^ F.ch3.length⟩ := by
  obtain ⟨w0, w1, w2, w3, d01, d02, d03, d12, d13, d23⟩ := formatWf_fields h
  have s01 := (fieldsDisjoint_comm F.ch1 F.ch0).trans d01
  have s02 := (fieldsDisjoint_comm F.ch2 F.ch0).trans d02
  have s03 := (fieldsDisjoint_comm F.ch3 F.ch0).trans d03
  have s12 := (fieldsDisjoint_comm F.ch2 F.ch1).trans d12
  have s13 := (fieldsDisjoint_comm F.ch3 F.ch1).trans d13
  have s23 := (fieldsDisjoint_comm F.ch3 F.ch2).trans d23
  rw [pack_eq_or h]
  simp only [unpack, unpackField_or, unpackField_packField, unpackField_disjoint d01, unpackField_disjoint d02,
    unpackField_disjoint d03, unpackField_disjoint d12, unpackField_disjoint d13, unpackField_disjoint d23,
    unpackField_disjoint s01, unpackField_disjoint s02, unpackField_disjoint s03, unpackField_disjoint s12,
    unpackField_disjoint s13, unpackField_disjoint s23, Nat.or_zero, Nat.zero_or]

/-- Packing an unpacked field keeps exactly the field's bits. -/
theorem packField_unpackField (F : ChannelField) (raw : Nat) :
    packField F (unpackField F raw) = raw &&& fieldBits F := by
  apply Nat.eq_of_testBit_eq
  intro j
  rw [testBit_packField, testBit_unpackField, Nat.testBit_and, testBit_fieldBits]
  by_cases h : F.offset ≤ j
  · have h2 : (j - F.offset < F.length) ↔ (j < F.offset + F.length) := by omega
    rw [show F.offset + (j - F.offset) = j by omega]
    by_cases h3 : j < F.offset + F.length <;> simp [h, h2, h3]
  · simp [h]

/-- Packing an unpacked word keeps exactly the bits of the fields (R126). -/
theorem pack_unpack {F : PixelFormat} (h : formatWf F = true) (raw : Nat) :
    pack F (unpack F raw) = raw &&& fieldMask F := by
  rw [pack_eq_or h]
  simp only [unpack, packField_unpackField, fieldMask, Nat.and_or_distrib_left]

/-- A bit outside every field of the row is 0 in a packed word (R69). -/
theorem testBit_pack_outside {F : PixelFormat} (h : formatWf F = true) (v : Channels) {j : Nat}
    (hj : ∀ G ∈ [F.ch0, F.ch1, F.ch2, F.ch3], j < G.offset ∨ G.offset + G.length ≤ j) :
    (pack F v).testBit j = false := by
  have key : ∀ G ∈ [F.ch0, F.ch1, F.ch2, F.ch3], ∀ u, (packField G u).testBit j = false := by
    intro G hG u
    have := hj G hG
    rw [testBit_packField]
    have : (decide (G.offset ≤ j) && decide (j < G.offset + G.length)) = false := by simp; omega
    simp [this]
  rw [pack_eq_or h]
  simp only [Nat.testBit_or]
  rw [key F.ch0 (by simp), key F.ch1 (by simp), key F.ch2 (by simp), key F.ch3 (by simp)]
  rfl

/-- The catalog rows of a legal parameter record are well formed. -/
theorem formatWf_of_paramsWf {p : Params} (h : paramsWf p = true) (i : Fin 24) : formatWf p.catalog[i] = true := by
  simp only [paramsWf, Bool.and_eq_true] at h
  exact List.all_eq_true.1 h.1.2 _ (by simp)

/-! ### The CLUT batch -/

/-- The batch writes the words of the range and no other (R124). -/
theorem clutFill_get (p : Params) (F : PixelFormat) (ebuf : Vector Word 256) (start n : Nat)
    (cbuf : Vector Word 256) (hn : start + n ≤ 256) (j : Fin 256) :
    (clutFill p F ebuf start n cbuf)[j] =
      if h : start ≤ j.val ∧ j.val < start + n then
        encodeWord p F (entryChannels (ebuf[j.val - start]'(by omega)))
      else cbuf[j] := by
  induction n with
  | zero => simp only [clutFill]; rw [dif_neg (by omega)]
  | succ n ih =>
    have hj := j.isLt
    simp only [clutFill, Fin.getElem_fin, Vector.getElem_setIfInBounds] at ih ⊢
    by_cases h1 : start + n = j.val
    · rw [if_pos h1, dif_pos (by omega)]
      have : j.val - start = n := by omega
      simp [this, show n < 256 by omega]
    · rw [if_neg h1, ih (by omega)]
      by_cases h2 : start ≤ j.val ∧ j.val < start + n
      · rw [dif_pos h2, dif_pos (by omega)]
      · rw [dif_neg h2, dif_neg (by omega)]

/-! ### Alpha -/

theorem toHw_le {a n : Nat} (h : a ≤ 1023) : toHw a n ≤ 2 ^ n - 1 := by
  unfold toHw Config.anorm
  calc a * (2 ^ n - 1) / 1023 ≤ 1023 * (2 ^ n - 1) / 1023 := Nat.div_le_div_right (Nat.mul_le_mul_right _ h)
    _ = 2 ^ n - 1 := Nat.mul_div_cancel_left _ (by decide)

theorem toHw_mono {a b : Nat} (n : Nat) (h : a ≤ b) : toHw a n ≤ toHw b n :=
  Nat.div_le_div_right (Nat.mul_le_mul_right _ h)

theorem fromHw_le (r n : Nat) : fromHw r n ≤ 1023 := Nat.min_le_left _ _

/-! ### Geometry -/

theorem zeroExtend32_toNat (v : BitVec 16) : (v.zeroExtend 32).toNat = v.toNat := by
  simp only [BitVec.toNat_setWidth]; have := v.isLt; omega

/-- The inverse of the position encoding is exact (R149). -/
theorem decodePosition_encodePosition (V : BitVec 16) (x : Word) :
    decodePosition V (encodePosition V x) = x := by
  simp only [decodePosition, encodePosition]; bv_omega

theorem decodeSize_encodeSize (w : Word) : decodeSize (encodeSize w) = w := by
  simp only [decodeSize, encodeSize]; bv_omega

/-- A clamped size is the smaller of the request and what is left (R140 rules 3 and 4). -/
theorem clampSize_toNat {V : BitVec 16} {pos size : Word} (h : pos.toNat ≤ V.toNat) :
    (clampSize V pos size).toNat = min size.toNat (V.toNat - pos.toNat) := by
  unfold clampSize
  split
  · have := V.isLt
    rw [toWord_toNat_of_lt (by omega)]; omega
  · omega

/-- Rule 5 of R140 in numbers. -/
theorem evenWidth_toNat (b : Bool) (w : Word) :
    (evenWidth b w).toNat = if b = true ∧ 2 < w.toNat then w.toNat - w.toNat % 2 else w.toNat := by
  unfold evenWidth
  by_cases h : b = true ∧ w.toNat > 2
  · rw [if_pos h, if_pos h]
    have := w.isLt
    exact toWord_toNat_of_lt (by omega)
  · rw [if_neg h, if_neg h]

theorem evenWidth_le (b : Bool) (w : Word) : (evenWidth b w).toNat ≤ w.toNat := by
  rw [evenWidth_toNat]; split <;> omega

/-- The three ways `validate` ends (R140). -/
theorem validate_cases (L : LayerRecord) (F : PixelFormat) (g : Geometry) :
    ((g.x.toNat > L.visw.toNat ∨ g.y.toNat > L.vish.toNat) ∧ validate L F g = .error .invalidPosition) ∨
    (¬ (g.x.toNat > L.visw.toNat ∨ g.y.toNat > L.vish.toNat) ∧ (g.w = 0 ∨ g.h = 0) ∧
      validate L F g = .error .invalidSize) ∨
    (¬ (g.x.toNat > L.visw.toNat ∨ g.y.toNat > L.vish.toNat) ∧ ¬ (g.w = 0 ∨ g.h = 0) ∧
      validate L F g = .ok { g with
        w := evenWidth F.is422 (clampSize L.visw g.x g.w), h := clampSize L.vish g.y g.h }) := by
  unfold validate
  by_cases h1 : g.x.toNat > L.visw.toNat ∨ g.y.toNat > L.vish.toNat
  · exact .inl ⟨h1, if_pos h1⟩
  · by_cases h2 : g.w = 0 ∨ g.h = 0
    · exact .inr (.inl ⟨h1, h2, by rw [if_neg h1, if_pos h2]⟩)
    · exact .inr (.inr ⟨h1, h2, by rw [if_neg h1, if_neg h2]⟩)

end Sys2Proof.Machine
end

