-- ==== Sys2Proof/Laws/Memory.lean ====
section
/-! SUPPORT. The laws of the sparse memory: read after write, and that a write keeps the canonical form. -/

namespace Sys2Proof.Machine

@[simp] theorem Memory.read_nil (k : Nat) : Memory.read [] k = none := rfl

theorem Memory.read_cons (j : Nat) (u : Word) (m : Memory) (k : Nat) :
    Memory.read ((j, u) :: m) k = if k = j then some u else Memory.read m k := rfl

@[simp] theorem Memory.read_write_same (m : Memory) (k : Nat) (v : Word) :
    (m.write k v).read k = some v := by
  induction m with
  | nil => simp [Memory.write, Memory.read]
  | cons e m ih =>
    obtain ⟨j, u⟩ := e
    simp only [Memory.write]
    split
    · simp [Memory.read]
    · split
      · simp [Memory.read]
      · next h => simp [Memory.read_cons, h, ih]

theorem Memory.read_write_other (m : Memory) {k k' : Nat} (v : Word) (h : k' ≠ k) :
    (m.write k v).read k' = m.read k' := by
  induction m with
  | nil => simp [Memory.write, Memory.read, h]
  | cons e m ih =>
    obtain ⟨j, u⟩ := e
    simp only [Memory.write]
    split
    · simp [Memory.read, h]
    · split
      · next h2 => subst h2; simp [Memory.read_cons, h]
      · simp [Memory.read_cons, ih]

/-- A write adds at most its own key. -/
theorem Memory.mem_write {m : Memory} {k : Nat} {v : Word} {e : Nat × Word} (h : e ∈ m.write k v) :
    e = (k, v) ∨ e ∈ m := by
  induction m with
  | nil => simpa [Memory.write] using h
  | cons d m ih =>
    obtain ⟨j, u⟩ := d
    simp only [Memory.write] at h
    split at h
    · simpa using h
    · split at h
      · simp only [List.mem_cons] at h ⊢; tauto
      · simp only [List.mem_cons] at h ⊢
        rcases h with h | h
        · tauto
        · rcases ih h with h | h <;> tauto

theorem Memory.wf_iff (m : Memory) : m.wf = true ↔ m.Pairwise fun p q => p.1 < q.1 := by
  simp [Memory.wf]

theorem Memory.wf_nil : Memory.wf [] = true := by decide

/-- The shadow array after reset is canonical. -/
theorem State.reset_hw_wf : State.reset.hw.wf = true := Memory.wf_nil

/-- A write keeps the canonical form. -/
theorem Memory.wf_write {m : Memory} (k : Nat) (v : Word) (h : m.wf = true) : (m.write k v).wf = true := by
  rw [Memory.wf_iff] at *
  induction m with
  | nil => simp [Memory.write]
  | cons d m ih =>
    obtain ⟨j, u⟩ := d
    obtain ⟨hj, hm⟩ := List.pairwise_cons.1 h
    simp only [Memory.write]
    split
    · next hlt =>
      refine List.pairwise_cons.2 ⟨fun e he => ?_, h⟩
      rcases List.mem_cons.1 he with rfl | he
      · exact hlt
      · exact Nat.lt_trans hlt (hj e he)
    · split
      · next heq => subst heq; exact List.pairwise_cons.2 ⟨hj, hm⟩
      · next hlt heq =>
        refine List.pairwise_cons.2 ⟨fun e he => ?_, ih hm⟩
        rcases Memory.mem_write he with rfl | he
        · simp only; omega
        · exact hj e he

/-- A listed key below a bound: writing a key below it keeps that. -/
theorem Memory.keys_below_write {m : Memory} {k bound : Nat} {v : Word} (hk : k < bound)
    (h : ∀ e ∈ m, e.1 < bound) : ∀ e ∈ m.write k v, e.1 < bound := by
  intro e he
  rcases Memory.mem_write he with rfl | he
  · exact hk
  · exact h e he

theorem Slot.number_lt (t : Slot) : t.number < Config.layerNregs := by cases t <;> decide

theorem Slot.number_injective {t t' : Slot} (h : t.number = t'.number) : t = t' := by
  cases t <;> cases t' <;> first | rfl | (exact absurd h (by decide))

@[simp] theorem Slot.ofNumber_number (t : Slot) : Slot.ofNumber? t.number = some t := by cases t <;> rfl

theorem Slot.ofNumber_eq_some {n : Nat} {t : Slot} (h : Slot.ofNumber? n = some t) : t.number = n := by
  unfold Slot.ofNumber? at h
  split at h <;> first | (cases h; rfl) | (cases h)

theorem Slot.ofNumber_eq_none_iff (n : Nat) : Slot.ofNumber? n = none ↔ 10 ≤ n := by
  constructor
  · intro h
    by_contra hn
    have : n < 10 := by omega
    interval_cases n <;> simp [Slot.ofNumber?] at h
  · intro h
    unfold Slot.ofNumber?
    split <;> first | rfl | omega

theorem slotKey_injective {l l' : BitVec 4} {t t' : Slot} (h : slotKey l t = slotKey l' t') :
    l = l' ∧ t = t' := by
  have h1 := Slot.number_lt t
  have h2 := Slot.number_lt t'
  simp only [slotKey, Config.layerNregs] at *
  exact ⟨BitVec.eq_of_toNat_eq (by omega), Slot.number_injective (by omega)⟩

theorem slotKey_lt {l : BitVec 4} {n : Nat} (t : Slot) (h : l.toNat < n) :
    slotKey l t < Config.layerNregs * n := by
  have h1 := Slot.number_lt t
  simp only [slotKey, Config.layerNregs] at *
  omega

end Sys2Proof.Machine
end

