-- ==== Sys2Proof/Laws/State.lean ====
section
/-! SUPPORT. One lemma for each field under each update of the state, so that no proof unfolds a record
update. -/

namespace Sys2Proof.Machine

/-! ### setCmd -/

section
variable (s : State) (w : Word)

@[simp] theorem State.setCmd_params : (s.setCmd w).params = s.params := rfl
@[simp] theorem State.setCmd_cmd : (s.setCmd w).cmd = w := rfl
@[simp] theorem State.setCmd_status : (s.setCmd w).status = s.status := rfl
@[simp] theorem State.setCmd_a : (s.setCmd w).a = s.a := rfl
@[simp] theorem State.setCmd_r : (s.setCmd w).r = s.r := rfl
@[simp] theorem State.setCmd_ebuf : (s.setCmd w).ebuf = s.ebuf := rfl
@[simp] theorem State.setCmd_cbuf : (s.setCmd w).cbuf = s.cbuf := rfl
@[simp] theorem State.setCmd_layers : (s.setCmd w).layers = s.layers := rfl
@[simp] theorem State.setCmd_hw : (s.setCmd w).hw = s.hw := rfl
@[simp] theorem State.setCmd_events : (s.setCmd w).events = s.events := rfl
@[simp] theorem State.setCmd_pending : (s.setCmd w).pending = s.pending := rfl
@[simp] theorem State.setCmd_readData : (s.setCmd w).readData = s.readData := rfl
@[simp] theorem State.setCmd_answers : (s.setCmd w).answers = s.answers := rfl
@[simp] theorem State.setCmd_freeCount : (s.setCmd w).freeCount = s.freeCount := rfl

end

/-! ### setStatus -/

section
variable (s : State) (w : Word)

@[simp] theorem State.setStatus_params : (s.setStatus w).params = s.params := rfl
@[simp] theorem State.setStatus_cmd : (s.setStatus w).cmd = s.cmd := rfl
@[simp] theorem State.setStatus_status : (s.setStatus w).status = w := rfl
@[simp] theorem State.setStatus_a : (s.setStatus w).a = s.a := rfl
@[simp] theorem State.setStatus_r : (s.setStatus w).r = s.r := rfl
@[simp] theorem State.setStatus_ebuf : (s.setStatus w).ebuf = s.ebuf := rfl
@[simp] theorem State.setStatus_cbuf : (s.setStatus w).cbuf = s.cbuf := rfl
@[simp] theorem State.setStatus_layers : (s.setStatus w).layers = s.layers := rfl
@[simp] theorem State.setStatus_hw : (s.setStatus w).hw = s.hw := rfl
@[simp] theorem State.setStatus_events : (s.setStatus w).events = s.events := rfl
@[simp] theorem State.setStatus_pending : (s.setStatus w).pending = s.pending := rfl
@[simp] theorem State.setStatus_readData : (s.setStatus w).readData = s.readData := rfl
@[simp] theorem State.setStatus_answers : (s.setStatus w).answers = s.answers := rfl
@[simp] theorem State.setStatus_freeCount : (s.setStatus w).freeCount = s.freeCount := rfl

end

/-! ### setOperand -/

section
variable (s : State) (i : Fin 8) (v : Word)

@[simp] theorem State.setOperand_params : (s.setOperand i v).params = s.params := rfl
@[simp] theorem State.setOperand_cmd : (s.setOperand i v).cmd = s.cmd := rfl
@[simp] theorem State.setOperand_status : (s.setOperand i v).status = s.status := rfl
@[simp] theorem State.setOperand_a : (s.setOperand i v).a = s.a.set i v := rfl
@[simp] theorem State.setOperand_r : (s.setOperand i v).r = s.r := rfl
@[simp] theorem State.setOperand_ebuf : (s.setOperand i v).ebuf = s.ebuf := rfl
@[simp] theorem State.setOperand_cbuf : (s.setOperand i v).cbuf = s.cbuf := rfl
@[simp] theorem State.setOperand_layers : (s.setOperand i v).layers = s.layers := rfl
@[simp] theorem State.setOperand_hw : (s.setOperand i v).hw = s.hw := rfl
@[simp] theorem State.setOperand_events : (s.setOperand i v).events = s.events := rfl
@[simp] theorem State.setOperand_pending : (s.setOperand i v).pending = s.pending := rfl
@[simp] theorem State.setOperand_readData : (s.setOperand i v).readData = s.readData := rfl
@[simp] theorem State.setOperand_answers : (s.setOperand i v).answers = s.answers := rfl
@[simp] theorem State.setOperand_freeCount : (s.setOperand i v).freeCount = s.freeCount := rfl

end

/-! ### setResult -/

section
variable (s : State) (i : Fin 8) (v : Word)

@[simp] theorem State.setResult_params : (s.setResult i v).params = s.params := rfl
@[simp] theorem State.setResult_cmd : (s.setResult i v).cmd = s.cmd := rfl
@[simp] theorem State.setResult_status : (s.setResult i v).status = s.status := rfl
@[simp] theorem State.setResult_a : (s.setResult i v).a = s.a := rfl
@[simp] theorem State.setResult_r : (s.setResult i v).r = s.r.set i v := rfl
@[simp] theorem State.setResult_ebuf : (s.setResult i v).ebuf = s.ebuf := rfl
@[simp] theorem State.setResult_cbuf : (s.setResult i v).cbuf = s.cbuf := rfl
@[simp] theorem State.setResult_layers : (s.setResult i v).layers = s.layers := rfl
@[simp] theorem State.setResult_hw : (s.setResult i v).hw = s.hw := rfl
@[simp] theorem State.setResult_events : (s.setResult i v).events = s.events := rfl
@[simp] theorem State.setResult_pending : (s.setResult i v).pending = s.pending := rfl
@[simp] theorem State.setResult_readData : (s.setResult i v).readData = s.readData := rfl
@[simp] theorem State.setResult_answers : (s.setResult i v).answers = s.answers := rfl
@[simp] theorem State.setResult_freeCount : (s.setResult i v).freeCount = s.freeCount := rfl

end

/-! ### setEntry -/

section
variable (s : State) (i : Fin 256) (v : Word)

@[simp] theorem State.setEntry_params : (s.setEntry i v).params = s.params := rfl
@[simp] theorem State.setEntry_cmd : (s.setEntry i v).cmd = s.cmd := rfl
@[simp] theorem State.setEntry_status : (s.setEntry i v).status = s.status := rfl
@[simp] theorem State.setEntry_a : (s.setEntry i v).a = s.a := rfl
@[simp] theorem State.setEntry_r : (s.setEntry i v).r = s.r := rfl
@[simp] theorem State.setEntry_ebuf : (s.setEntry i v).ebuf = s.ebuf.set i v := rfl
@[simp] theorem State.setEntry_cbuf : (s.setEntry i v).cbuf = s.cbuf := rfl
@[simp] theorem State.setEntry_layers : (s.setEntry i v).layers = s.layers := rfl
@[simp] theorem State.setEntry_hw : (s.setEntry i v).hw = s.hw := rfl
@[simp] theorem State.setEntry_events : (s.setEntry i v).events = s.events := rfl
@[simp] theorem State.setEntry_pending : (s.setEntry i v).pending = s.pending := rfl
@[simp] theorem State.setEntry_readData : (s.setEntry i v).readData = s.readData := rfl
@[simp] theorem State.setEntry_answers : (s.setEntry i v).answers = s.answers := rfl
@[simp] theorem State.setEntry_freeCount : (s.setEntry i v).freeCount = s.freeCount := rfl

end

/-! ### setClut -/

section
variable (s : State) (c : Vector Word 256)

@[simp] theorem State.setClut_params : (s.setClut c).params = s.params := rfl
@[simp] theorem State.setClut_cmd : (s.setClut c).cmd = s.cmd := rfl
@[simp] theorem State.setClut_status : (s.setClut c).status = s.status := rfl
@[simp] theorem State.setClut_a : (s.setClut c).a = s.a := rfl
@[simp] theorem State.setClut_r : (s.setClut c).r = s.r := rfl
@[simp] theorem State.setClut_ebuf : (s.setClut c).ebuf = s.ebuf := rfl
@[simp] theorem State.setClut_cbuf : (s.setClut c).cbuf = c := rfl
@[simp] theorem State.setClut_layers : (s.setClut c).layers = s.layers := rfl
@[simp] theorem State.setClut_hw : (s.setClut c).hw = s.hw := rfl
@[simp] theorem State.setClut_events : (s.setClut c).events = s.events := rfl
@[simp] theorem State.setClut_pending : (s.setClut c).pending = s.pending := rfl
@[simp] theorem State.setClut_readData : (s.setClut c).readData = s.readData := rfl
@[simp] theorem State.setClut_answers : (s.setClut c).answers = s.answers := rfl
@[simp] theorem State.setClut_freeCount : (s.setClut c).freeCount = s.freeCount := rfl

end

/-! ### setLayer -/

section
variable (s : State) (l : BitVec 4) (L : LayerRecord)

@[simp] theorem State.setLayer_params : (s.setLayer l L).params = s.params := rfl
@[simp] theorem State.setLayer_cmd : (s.setLayer l L).cmd = s.cmd := rfl
@[simp] theorem State.setLayer_status : (s.setLayer l L).status = s.status := rfl
@[simp] theorem State.setLayer_a : (s.setLayer l L).a = s.a := rfl
@[simp] theorem State.setLayer_r : (s.setLayer l L).r = s.r := rfl
@[simp] theorem State.setLayer_ebuf : (s.setLayer l L).ebuf = s.ebuf := rfl
@[simp] theorem State.setLayer_cbuf : (s.setLayer l L).cbuf = s.cbuf := rfl
@[simp] theorem State.setLayer_layers : (s.setLayer l L).layers = s.layers.set l.toNat L l.isLt := rfl
@[simp] theorem State.setLayer_hw : (s.setLayer l L).hw = s.hw := rfl
@[simp] theorem State.setLayer_events : (s.setLayer l L).events = s.events := rfl
@[simp] theorem State.setLayer_pending : (s.setLayer l L).pending = s.pending := rfl
@[simp] theorem State.setLayer_readData : (s.setLayer l L).readData = s.readData := rfl
@[simp] theorem State.setLayer_answers : (s.setLayer l L).answers = s.answers := rfl
@[simp] theorem State.setLayer_freeCount : (s.setLayer l L).freeCount = s.freeCount := rfl

end

/-! ### setPending -/

section
variable (s : State) (p : List HostAction)

@[simp] theorem State.setPending_params : (s.setPending p).params = s.params := rfl
@[simp] theorem State.setPending_cmd : (s.setPending p).cmd = s.cmd := rfl
@[simp] theorem State.setPending_status : (s.setPending p).status = s.status := rfl
@[simp] theorem State.setPending_a : (s.setPending p).a = s.a := rfl
@[simp] theorem State.setPending_r : (s.setPending p).r = s.r := rfl
@[simp] theorem State.setPending_ebuf : (s.setPending p).ebuf = s.ebuf := rfl
@[simp] theorem State.setPending_cbuf : (s.setPending p).cbuf = s.cbuf := rfl
@[simp] theorem State.setPending_layers : (s.setPending p).layers = s.layers := rfl
@[simp] theorem State.setPending_hw : (s.setPending p).hw = s.hw := rfl
@[simp] theorem State.setPending_events : (s.setPending p).events = s.events := rfl
@[simp] theorem State.setPending_pending : (s.setPending p).pending = p := rfl
@[simp] theorem State.setPending_readData : (s.setPending p).readData = s.readData := rfl
@[simp] theorem State.setPending_answers : (s.setPending p).answers = s.answers := rfl
@[simp] theorem State.setPending_freeCount : (s.setPending p).freeCount = s.freeCount := rfl

end

/-! ### setReadData -/

section
variable (s : State) (v : Word)

@[simp] theorem State.setReadData_params : (s.setReadData v).params = s.params := rfl
@[simp] theorem State.setReadData_cmd : (s.setReadData v).cmd = s.cmd := rfl
@[simp] theorem State.setReadData_status : (s.setReadData v).status = s.status := rfl
@[simp] theorem State.setReadData_a : (s.setReadData v).a = s.a := rfl
@[simp] theorem State.setReadData_r : (s.setReadData v).r = s.r := rfl
@[simp] theorem State.setReadData_ebuf : (s.setReadData v).ebuf = s.ebuf := rfl
@[simp] theorem State.setReadData_cbuf : (s.setReadData v).cbuf = s.cbuf := rfl
@[simp] theorem State.setReadData_layers : (s.setReadData v).layers = s.layers := rfl
@[simp] theorem State.setReadData_hw : (s.setReadData v).hw = s.hw := rfl
@[simp] theorem State.setReadData_events : (s.setReadData v).events = s.events := rfl
@[simp] theorem State.setReadData_pending : (s.setReadData v).pending = s.pending := rfl
@[simp] theorem State.setReadData_readData : (s.setReadData v).readData = v := rfl
@[simp] theorem State.setReadData_answers : (s.setReadData v).answers = s.answers := rfl
@[simp] theorem State.setReadData_freeCount : (s.setReadData v).freeCount = s.freeCount := rfl

end

/-! ### raise -/

section
variable (s : State) (e : ErrorKind)

@[simp] theorem State.raise_params : (s.raise e).params = s.params := rfl
@[simp] theorem State.raise_cmd : (s.raise e).cmd = s.cmd := rfl
@[simp] theorem State.raise_status : (s.raise e).status = statusOf e := rfl
@[simp] theorem State.raise_a : (s.raise e).a = s.a := rfl
@[simp] theorem State.raise_r : (s.raise e).r = s.r := rfl
@[simp] theorem State.raise_ebuf : (s.raise e).ebuf = s.ebuf := rfl
@[simp] theorem State.raise_cbuf : (s.raise e).cbuf = s.cbuf := rfl
@[simp] theorem State.raise_layers : (s.raise e).layers = s.layers := rfl
@[simp] theorem State.raise_hw : (s.raise e).hw = s.hw := rfl
@[simp] theorem State.raise_events : (s.raise e).events = s.events := rfl
@[simp] theorem State.raise_pending : (s.raise e).pending = s.pending := rfl
@[simp] theorem State.raise_readData : (s.raise e).readData = s.readData := rfl
@[simp] theorem State.raise_answers : (s.raise e).answers = s.answers := rfl
@[simp] theorem State.raise_freeCount : (s.raise e).freeCount = s.freeCount := rfl

end

/-! ### complete -/

section
variable (s : State) 

@[simp] theorem State.complete_params : s.complete.params = s.params := rfl
@[simp] theorem State.complete_cmd : s.complete.cmd = s.cmd := rfl
@[simp] theorem State.complete_status : s.complete.status = statusOk := rfl
@[simp] theorem State.complete_a : s.complete.a = s.a := rfl
@[simp] theorem State.complete_r : s.complete.r = s.r := rfl
@[simp] theorem State.complete_ebuf : s.complete.ebuf = s.ebuf := rfl
@[simp] theorem State.complete_cbuf : s.complete.cbuf = s.cbuf := rfl
@[simp] theorem State.complete_layers : s.complete.layers = s.layers := rfl
@[simp] theorem State.complete_hw : s.complete.hw = s.hw := rfl
@[simp] theorem State.complete_events : s.complete.events = s.events := rfl
@[simp] theorem State.complete_pending : s.complete.pending = s.pending := rfl
@[simp] theorem State.complete_readData : s.complete.readData = s.readData := rfl
@[simp] theorem State.complete_answers : s.complete.answers = s.answers := rfl
@[simp] theorem State.complete_freeCount : s.complete.freeCount = s.freeCount := rfl

end

end Sys2Proof.Machine
end

