-- ==== Sys2Proof/Laws/Ops.lean ====
section
/-! SUPPORT. What each shared operation of Machine/Ops.lean can do, said once. -/

namespace Sys2Proof.Machine

/-! ### Layer records -/

@[simp] theorem State.layer_setLayer_same (s : State) (l : BitVec 4) (L : LayerRecord) :
    (s.setLayer l L).layer l = L := by
  simp [State.layer, State.setLayer]

theorem State.layer_setLayer_other (s : State) {l l' : BitVec 4} (L : LayerRecord) (h : l' ≠ l) :
    (s.setLayer l L).layer l' = s.layer l' := by
  have h' : l.toNat ≠ l'.toNat := fun e => h (BitVec.eq_of_toNat_eq e.symm)
  simp [State.layer, State.setLayer, h']

theorem State.layer_congr {s t : State} (h : t.layers = s.layers) (l : BitVec 4) : t.layer l = s.layer l := by
  simp [State.layer, h]

/-! ### The end of a command -/

/-- A command always answers a next state. -/
theorem finish_next (s : State) (x : Except ErrorKind State) : ∃ t, finish s x = .next t := by
  cases x <;> exact ⟨_, rfl⟩

@[simp] theorem finish_error (s : State) (e : ErrorKind) : finish s (.error e) = .next (s.raise e) := rfl

@[simp] theorem finish_ok (s t : State) : finish s (.ok t) = .next t.complete := rfl

theorem statusOf_ne_zero (e : ErrorKind) : statusOf e ≠ 0 := by cases e <;> decide

theorem statusOf_injective {e e' : ErrorKind} (h : statusOf e = statusOf e') : e = e' := by
  cases e <;> cases e' <;> first | rfl | (exact absurd h (by decide))

theorem statusOf_le (e : ErrorKind) : (statusOf e).toNat ≤ 8 := by cases e <;> decide

/-- The two ways a command ends. -/
theorem finish_cases {s t : State} {x : Except ErrorKind State} (h : finish s x = .next t) :
    (∃ e, x = .error e ∧ t = s.raise e) ∨ (∃ u, x = .ok u ∧ t = u.complete) := by
  cases x with
  | error e => exact .inl ⟨e, rfl, by simpa using h.symm⟩
  | ok u => exact .inr ⟨u, rfl, by simpa using h.symm⟩

/-- A command that leaves a non-zero `STATUS` changed nothing else (R173). -/
theorem finish_failing {s t : State} {x : Except ErrorKind State} (h : finish s x = .next t)
    (ht : t.status ≠ 0) : ∃ e, x = .error e ∧ t = s.raise e := by
  rcases finish_cases h with h | ⟨u, -, rfl⟩
  · exact h
  · exact absurd rfl ht

/-- A command that leaves `STATUS = 0` applied its effects. -/
theorem finish_succeeding {s t : State} {x : Except ErrorKind State} (h : finish s x = .next t)
    (ht : t.status = 0) : ∃ u, x = .ok u ∧ t = u.complete := by
  rcases finish_cases h with ⟨e, -, rfl⟩ | h
  · exact absurd ht (statusOf_ne_zero e)
  · exact h

/-- A sequence of checks and effects succeeds when each part does. -/
theorem except_bind_ok {α β : Type} {x : Except ErrorKind α} {f : α → Except ErrorKind β} {b : β}
    (h : (x >>= f) = .ok b) : ∃ a, x = .ok a ∧ f a = .ok b := by
  cases x with
  | error e => cases h
  | ok a => exact ⟨a, rfl, h⟩

@[simp] theorem except_ok_bind {α β : Type} (a : α) (f : α → Except ErrorKind β) :
    ((Except.ok a : Except ErrorKind α) >>= f) = f a := rfl

@[simp] theorem except_error_bind {α β : Type} (e : ErrorKind) (f : α → Except ErrorKind β) :
    ((Except.error e : Except ErrorKind α) >>= f) = .error e := rfl

/-! ### The shared checks -/

theorem checkLayer_ok {s : State} {l : BitVec 4} (h : l.toNat < s.params.nlayers) :
    checkLayer s l = .ok () := by simp [checkLayer, h]

theorem checkLayer_error {s : State} {l : BitVec 4} (h : s.params.nlayers ≤ l.toNat) :
    checkLayer s l = .error .illegalCommand := by simp [checkLayer, Nat.not_lt.2 h]

theorem lt_of_checkLayer {s : State} {l : BitVec 4} {u : Unit} (h : checkLayer s l = .ok u) :
    l.toNat < s.params.nlayers := by
  by_contra hn
  rw [checkLayer_error (Nat.le_of_not_lt hn)] at h
  cases h

theorem checkConfigured_error_layer {s : State} {l : BitVec 4} (h : s.params.nlayers ≤ l.toNat) :
    checkConfigured s l = .error .illegalCommand := by simp [checkConfigured, checkLayer_error h]

theorem checkConfigured_error_valid {s : State} {l : BitVec 4} (h : l.toNat < s.params.nlayers)
    (hv : (s.layer l).valid = false) : checkConfigured s l = .error .layerNotConfigured := by
  simp [checkConfigured, checkLayer_ok h, hv]

theorem checkConfigured_ok {s : State} {l : BitVec 4} (h : l.toNat < s.params.nlayers)
    (hv : (s.layer l).valid = true) : checkConfigured s l = .ok (s.layer l) := by
  simp [checkConfigured, checkLayer_ok h, hv]

theorem checkConfigured_cases {s : State} {l : BitVec 4} {L : LayerRecord} (h : checkConfigured s l = .ok L) :
    l.toNat < s.params.nlayers ∧ (s.layer l).valid = true ∧ L = s.layer l := by
  by_cases hl : l.toNat < s.params.nlayers
  · cases hv : (s.layer l).valid with
    | false => rw [checkConfigured_error_valid hl hv] at h; cases h
    | true => rw [checkConfigured_ok hl hv] at h; cases h; exact ⟨hl, rfl, rfl⟩
  · rw [checkConfigured_error_layer (Nat.le_of_not_lt hl)] at h; cases h

theorem formatOf_some {p : Params} {f : BitVec 5} (h : f.toNat < 24) :
    formatOf p f = some p.catalog[f.toNat] := by simp [formatOf, h]

theorem formatOf_none {p : Params} {f : BitVec 5} (h : 24 ≤ f.toNat) : formatOf p f = none := by
  simp [formatOf, Nat.not_lt.2 h]

theorem checkFormat_ok {s : State} {f : BitVec 5} (h : f.toNat < 24) :
    checkFormat s f = .ok s.params.catalog[f.toNat] := by simp [checkFormat, formatOf_some h]

theorem checkFormat_error {s : State} {f : BitVec 5} (h : 24 ≤ f.toNat) :
    checkFormat s f = .error .unsupportedFormat := by simp [checkFormat, formatOf_none h]

theorem checkSlot_error {v : Word} (h : 10 ≤ v.toNat) : checkSlot v = .error .registerPermissionDenied := by
  simp [checkSlot, (Slot.ofNumber_eq_none_iff v.toNat).2 h]

theorem checkSlot_ok {v : Word} {t : Slot} (h : v.toNat = t.number) : checkSlot v = .ok t := by
  simp [checkSlot, h]

theorem number_of_checkSlot {v : Word} {t : Slot} (h : checkSlot v = .ok t) : t.number = v.toNat := by
  unfold checkSlot at h
  split at h
  · cases h
  · next h' => cases h; exact Slot.ofNumber_eq_some h'

/-! ### Free values and the collaborator -/

/-- A draw changes only where the next free value comes from. -/
theorem State.draw_state (s : State) :
    (s.draw).2 = { s with answers := s.draw.2.answers, freeCount := s.draw.2.freeCount } := by
  unfold State.draw; split <;> rfl

/-- An answer changes only where the next free value comes from. -/
theorem State.answer_state (s : State) (l : BitVec 4) (t : Slot) :
    (s.answer l t).2 =
      { s with answers := (s.answer l t).2.answers, freeCount := (s.answer l t).2.freeCount } := by
  unfold State.answer
  split
  · exact s.draw_state
  · split
    · rfl
    · exact s.draw_state

/-- A `RegRead` changes only the history and where the next free value comes from. -/
theorem State.regRead_state (s : State) (l : BitVec 4) (t : Slot) :
    (s.regRead l t).2 =
      { s with
        events := s.events ++ [.regRead l t (s.regRead l t).1]
        answers := (s.answer l t).2.answers
        freeCount := (s.answer l t).2.freeCount } := by
  simp only [State.regRead]
  rw [State.answer_state]

section
variable (s : State) (l : BitVec 4) (t : Slot) (v : Word)

@[simp] theorem State.regRead_params : (s.regRead l t).2.params = s.params := by rw [State.regRead_state]
@[simp] theorem State.regRead_cmd : (s.regRead l t).2.cmd = s.cmd := by rw [State.regRead_state]
@[simp] theorem State.regRead_status : (s.regRead l t).2.status = s.status := by rw [State.regRead_state]
@[simp] theorem State.regRead_a : (s.regRead l t).2.a = s.a := by rw [State.regRead_state]
@[simp] theorem State.regRead_r : (s.regRead l t).2.r = s.r := by rw [State.regRead_state]
@[simp] theorem State.regRead_ebuf : (s.regRead l t).2.ebuf = s.ebuf := by rw [State.regRead_state]
@[simp] theorem State.regRead_cbuf : (s.regRead l t).2.cbuf = s.cbuf := by rw [State.regRead_state]
@[simp] theorem State.regRead_layers : (s.regRead l t).2.layers = s.layers := by rw [State.regRead_state]
@[simp] theorem State.regRead_hw : (s.regRead l t).2.hw = s.hw := by rw [State.regRead_state]
@[simp] theorem State.regRead_pending : (s.regRead l t).2.pending = s.pending := by rw [State.regRead_state]
@[simp] theorem State.regRead_readData : (s.regRead l t).2.readData = s.readData := by rw [State.regRead_state]
@[simp] theorem State.regRead_events :
    (s.regRead l t).2.events = s.events ++ [.regRead l t (s.regRead l t).1] := by rw [State.regRead_state]

@[simp] theorem State.regWrite_params : (s.regWrite l t v).params = s.params := rfl
@[simp] theorem State.regWrite_cmd : (s.regWrite l t v).cmd = s.cmd := rfl
@[simp] theorem State.regWrite_status : (s.regWrite l t v).status = s.status := rfl
@[simp] theorem State.regWrite_a : (s.regWrite l t v).a = s.a := rfl
@[simp] theorem State.regWrite_r : (s.regWrite l t v).r = s.r := rfl
@[simp] theorem State.regWrite_ebuf : (s.regWrite l t v).ebuf = s.ebuf := rfl
@[simp] theorem State.regWrite_cbuf : (s.regWrite l t v).cbuf = s.cbuf := rfl
@[simp] theorem State.regWrite_layers : (s.regWrite l t v).layers = s.layers := rfl
@[simp] theorem State.regWrite_pending : (s.regWrite l t v).pending = s.pending := rfl
@[simp] theorem State.regWrite_readData : (s.regWrite l t v).readData = s.readData := rfl
@[simp] theorem State.regWrite_answers : (s.regWrite l t v).answers = s.answers := rfl
@[simp] theorem State.regWrite_freeCount : (s.regWrite l t v).freeCount = s.freeCount := rfl
@[simp] theorem State.regWrite_events :
    (s.regWrite l t v).events = s.events ++ [.regWrite l t v] := rfl

end

/-- Under the shadow policy a written slot reads back the word (R47). -/
theorem State.regWrite_read_same {s : State} (hc : s.params.collab = .shadow) (l : BitVec 4) (t : Slot)
    (v : Word) : (s.regWrite l t v).hw.read (slotKey l t) = some v := by
  simp [State.regWrite, hc]

/-- A `RegWrite` leaves every other key alone. -/
theorem State.regWrite_read_other (s : State) (l : BitVec 4) (t : Slot) (v : Word) {k : Nat}
    (h : k ≠ slotKey l t) : (s.regWrite l t v).hw.read k = s.hw.read k := by
  unfold State.regWrite
  cases s.params.collab with
  | shadow => exact Memory.read_write_other _ _ h
  | oracle => rfl

theorem State.regWrite_hw_wf {s : State} (l : BitVec 4) (t : Slot) (v : Word) (h : s.hw.wf = true) :
    (s.regWrite l t v).hw.wf = true := by
  unfold State.regWrite
  cases s.params.collab with
  | shadow => exact Memory.wf_write _ _ h
  | oracle => exact h

/-- Under the shadow policy a listed slot is read without drawing a value (R47). -/
theorem State.regRead_shadow {s : State} {l : BitVec 4} {t : Slot} {v : Word}
    (hc : s.params.collab = .shadow) (h : s.hw.read (slotKey l t) = some v) :
    s.regRead l t = (v, { s with events := s.events ++ [.regRead l t v] }) := by
  simp [State.regRead, State.answer, hc, h]

/-- Under the oracle policy the next answer is returned, whatever it is (R47). -/
theorem State.regRead_oracle {s : State} {l : BitVec 4} {t : Slot} {v : Word} {rest : List Word}
    (hc : s.params.collab = .oracle) (h : s.answers = v :: rest) :
    s.regRead l t = (v, { s with events := s.events ++ [.regRead l t v], answers := rest }) := by
  simp [State.regRead, State.answer, State.draw, hc, h]

/-- Several `RegWrite`s change only the shadow array and the history, which grows by them in order. -/
theorem State.regWrites_state (s : State) (l : BitVec 4) (ws : List (Slot × Word)) :
    s.regWrites l ws =
      { s with
        hw := (s.regWrites l ws).hw
        events := s.events ++ ws.map fun w => .regWrite l w.1 w.2 } := by
  induction ws generalizing s with
  | nil => simp [State.regWrites]
  | cons w ws ih =>
    obtain ⟨t, v⟩ := w
    simp only [State.regWrites]
    rw [ih]
    simp [State.regWrite]

section
variable (s : State) (l : BitVec 4) (ws : List (Slot × Word))

@[simp] theorem State.regWrites_params : (s.regWrites l ws).params = s.params := by
  rw [State.regWrites_state]
@[simp] theorem State.regWrites_cmd : (s.regWrites l ws).cmd = s.cmd := by
  rw [State.regWrites_state]
@[simp] theorem State.regWrites_status : (s.regWrites l ws).status = s.status := by
  rw [State.regWrites_state]
@[simp] theorem State.regWrites_a : (s.regWrites l ws).a = s.a := by
  rw [State.regWrites_state]
@[simp] theorem State.regWrites_r : (s.regWrites l ws).r = s.r := by
  rw [State.regWrites_state]
@[simp] theorem State.regWrites_ebuf : (s.regWrites l ws).ebuf = s.ebuf := by
  rw [State.regWrites_state]
@[simp] theorem State.regWrites_cbuf : (s.regWrites l ws).cbuf = s.cbuf := by
  rw [State.regWrites_state]
@[simp] theorem State.regWrites_layers : (s.regWrites l ws).layers = s.layers := by
  rw [State.regWrites_state]
@[simp] theorem State.regWrites_pending : (s.regWrites l ws).pending = s.pending := by
  rw [State.regWrites_state]
@[simp] theorem State.regWrites_readData : (s.regWrites l ws).readData = s.readData := by
  rw [State.regWrites_state]
@[simp] theorem State.regWrites_answers : (s.regWrites l ws).answers = s.answers := by
  rw [State.regWrites_state]
@[simp] theorem State.regWrites_freeCount : (s.regWrites l ws).freeCount = s.freeCount := by
  rw [State.regWrites_state]
@[simp] theorem State.regWrites_events :
    (s.regWrites l ws).events = s.events ++ ws.map fun w => .regWrite l w.1 w.2 := by
  rw [State.regWrites_state]

end

/-- A key that no write of the list names keeps its word. -/
theorem State.regWrites_read_other (s : State) (l : BitVec 4) (ws : List (Slot × Word)) {k : Nat}
    (h : ∀ w ∈ ws, k ≠ slotKey l w.1) : (s.regWrites l ws).hw.read k = s.hw.read k := by
  induction ws generalizing s with
  | nil => rfl
  | cons w ws ih =>
    obtain ⟨t, v⟩ := w
    simp only [State.regWrites]
    rw [ih _ fun w hw => h w (List.mem_cons_of_mem _ hw),
      State.regWrite_read_other s l t v (h (t, v) List.mem_cons_self)]

theorem State.regWrites_hw_wf {s : State} (l : BitVec 4) (ws : List (Slot × Word)) (h : s.hw.wf = true) :
    (s.regWrites l ws).hw.wf = true := by
  induction ws generalizing s with
  | nil => exact h
  | cons w ws ih => exact ih (State.regWrite_hw_wf l w.1 w.2 h)

/-- Every key listed after the writes was listed before or is a slot of that layer. -/
theorem State.mem_hw_regWrites {s : State} {l : BitVec 4} {ws : List (Slot × Word)} {e : Nat × Word}
    (h : e ∈ (s.regWrites l ws).hw) : e ∈ s.hw ∨ ∃ t, e.1 = slotKey l t := by
  induction ws generalizing s with
  | nil => exact .inl h
  | cons w ws ih =>
    rcases ih h with h | h
    · revert h
      unfold State.regWrite
      cases s.params.collab with
      | shadow =>
        intro h
        rcases Memory.mem_write h with rfl | h
        · exact .inr ⟨w.1, rfl⟩
        · exact .inl h
      | oracle => exact .inl
    · exact .inr h

end Sys2Proof.Machine
end

