-- ==== Sys2Proof/Laws/Catalog.lean ====
section
/-! SUPPORT. The catalog: a request names at most one row, what the lookup answers, the descriptor words, and
the checks of the single units. -/

namespace Sys2Proof

theorem LayerType.code_injective {a b : LayerType} (h : a.code = b.code) : a = b := by
  cases a <;> cases b <;> first | rfl | cases h

theorem TranspMode.code_injective {a b : TranspMode} (h : a.code = b.code) : a = b := by
  cases a <;> cases b <;> first | rfl | cases h

theorem swapCode_injective {a b : Bool} (h : swapCode a = swapCode b) : a = b := by
  cases a <;> cases b <;> first | rfl | cases h

namespace Machine

/-! ### The lookup -/

theorem keyMatches_iff (F : PixelFormat) (type bpp tm sw : Word) :
    keyMatches F type bpp tm sw = true ↔ F.type.code = type.toNat ∧ F.reqBpp = bpp.toNat ∧
      F.tm.code = tm.toNat ∧ swapCode F.swapped = sw.toNat := by
  simp [keyMatches, and_assoc]

/-- No two rows of a well-formed catalog have the same key (R80). -/
theorem catalog_key_unique {p : Params} (h : paramsWf p = true) {i j : Fin 24}
    (hs : sameKey p.catalog[i] p.catalog[j] = true) : i = j := by
  simp only [paramsWf, Bool.and_eq_true, catalogUnique, decide_eq_true_eq] at h
  have key : ∀ i j : Fin 24, i < j → sameKey p.catalog[i] p.catalog[j] = false := fun i j hij => by
    simpa using (List.pairwise_iff_getElem.1 h.2 i j (by simp) (by simp) hij).1
  rcases lt_trichotomy i j with hl | hl | hl
  · rw [key _ _ hl] at hs; cases hs
  · exact hl
  · have hr : sameKey p.catalog[j] p.catalog[i] = true := by
      simp only [sameKey, Bool.and_eq_true, beq_iff_eq] at hs ⊢
      exact ⟨⟨⟨hs.1.1.1.symm, hs.1.1.2.symm⟩, hs.1.2.symm⟩, hs.2.symm⟩
    rw [key _ _ hl] at hr; cases hr

/-- The lookup finds a row that the operands match (R83). -/
theorem checkRequest_ok {s : State} (h : paramsWf s.params = true) {i : Fin 24}
    (hi : keyMatches s.params.catalog[i] (s.operand 0) (s.operand 1) (s.operand 2) (s.operand 3) = true) :
    checkRequest s = .ok i := by
  unfold checkRequest resolve
  cases hf : (List.finRange 24).find? fun i =>
      keyMatches s.params.catalog[i] (s.operand 0) (s.operand 1) (s.operand 2) (s.operand 3) with
  | none => exact absurd hi (List.find?_eq_none.1 hf i (List.mem_finRange i))
  | some j =>
    obtain ⟨a, b, c, d⟩ := (keyMatches_iff ..).1 hi
    have hj := List.find?_some hf
    obtain ⟨a', b', c', d'⟩ := (keyMatches_iff ..).1 hj
    rw [catalog_key_unique h (i := j) (j := i)]
    simp only [sameKey, Bool.and_eq_true, beq_iff_eq]
    exact ⟨⟨⟨LayerType.code_injective (a'.trans a.symm), b'.trans b.symm⟩,
      TranspMode.code_injective (c'.trans c.symm)⟩, swapCode_injective (d'.trans d.symm)⟩

/-- The lookup fails when the operands match no row (R83). -/
theorem checkRequest_error {s : State} (h : ∀ i : Fin 24,
    keyMatches s.params.catalog[i] (s.operand 0) (s.operand 1) (s.operand 2) (s.operand 3) = false) :
    checkRequest s = .error .unsupportedFormat := by
  unfold checkRequest resolve
  rw [List.find?_eq_none.2 fun i _ => by rw [h i]; decide]

/-- A row that the lookup answers matches the operands. -/
theorem keyMatches_of_checkRequest {s : State} {i : Fin 24} (h : checkRequest s = .ok i) :
    keyMatches s.params.catalog[i] (s.operand 0) (s.operand 1) (s.operand 2) (s.operand 3) = true := by
  unfold checkRequest at h
  split at h
  · cases h
  · next hf => cases h; have hk := List.find?_some hf; exact hk

/-! ### The descriptor words (R68) -/

theorem or_shiftLeft {a b k : Nat} (h : a < 2 ^ k) : a ||| b <<< k = a + b * 2 ^ k := by
  rw [Nat.or_comm, ← Nat.shiftLeft_add_eq_or_of_lt h, Nat.shiftLeft_eq, Nat.add_comm]

theorem fieldImage_toNat {c : ChannelField} (h : channelWf c = true) :
    (fieldImage c).toNat = c.offset + c.length * 2 ^ 8 ∧ c.offset < 2 ^ 8 ∧ c.length < 2 ^ 8 := by
  simp only [channelWf, Bool.and_eq_true, decide_eq_true_eq] at h
  rw [fieldImage, or_shiftLeft (by omega), toWord_toNat_of_lt (by omega)]
  omega

theorem alphaBits_mem {F : PixelFormat} (h : formatWf F = true) :
    F.alphaBits ∈ [0, 3, 6, 8, 10] ∧ (layerAlpha F = true → F.alphaBits ∈ [3, 6, 8, 10]) := by
  simp only [formatWf, Bool.and_eq_true] at h
  have h := h.2
  split at h <;> simp_all

/-- The attributes word is the sum of its fields, each below its width (R68). -/
theorem attributesImage_toNat {F : PixelFormat} (h : formatWf F = true) :
    (attributesImage F).toNat = F.cls.code + F.clutVariant.code * 2 ^ 2 + swapCode F.swapped * 2 ^ 4
      + F.is422.toNat * 2 ^ 5 + F.conv.toNat * 2 ^ 6 + F.tm.code * 2 ^ 8 + F.alphaBits * 2 ^ 12
      + F.storageBits / 8 * 2 ^ 16 ∧
    F.cls.code < 4 ∧ F.clutVariant.code < 4 ∧ swapCode F.swapped < 2 ∧ F.is422.toNat < 2 ∧
    F.conv.toNat < 2 ∧ F.tm.code < 8 ∧ F.alphaBits < 16 ∧ F.storageBits / 8 < 16 := by
  have hc : F.cls.code < 4 := by cases F.cls <;> decide
  have hv : F.clutVariant.code < 4 := by cases F.clutVariant <;> decide
  have hs : swapCode F.swapped < 2 := by cases F.swapped <;> decide
  have h4 := Bool.toNat_lt F.is422
  have hk := Bool.toNat_lt F.conv
  have ht : F.tm.code < 8 := by cases F.tm <;> decide
  have hal : F.alphaBits < 16 := by
    have := (alphaBits_mem h).1; simp only [List.mem_cons, List.not_mem_nil, or_false] at this; omega
  have hst : F.storageBits / 8 < 16 := by
    simp only [formatWf, Bool.and_eq_true, List.contains_eq_mem, decide_eq_true_eq, List.mem_cons,
      List.not_mem_nil, or_false] at h
    omega
  refine ⟨?_, hc, hv, hs, h4, hk, ht, hal, hst⟩
  unfold attributesImage bytesPerPixel
  rw [or_shiftLeft (k := 2) (by omega), or_shiftLeft (k := 4) (by omega), or_shiftLeft (k := 5) (by omega),
    or_shiftLeft (k := 6) (by omega), or_shiftLeft (k := 8) (by omega), or_shiftLeft (k := 12) (by omega),
    or_shiftLeft (k := 16) (by omega)]
  exact toWord_toNat_of_lt (by omega)

/-- A depth fits a register. -/
theorem bpp_lt {F : PixelFormat} (h : formatWf F = true) : F.bpp < 2 ^ 32 := by
  simp only [formatWf, Bool.and_eq_true, List.contains_eq_mem, decide_eq_true_eq, List.mem_cons,
    List.not_mem_nil, or_false] at h
  omega

/-! ### The checks of single units -/

/-- The size check of LCFG (R86). -/
theorem checkSizes_eq (p : Params) (visw vish virtw virth : BitVec 16) :
    checkSizes p visw vish virtw virth =
      if visw.toNat = 0 ∨ vish.toNat = 0 ∨ visw.toNat > p.maxw ∨ vish.toNat > p.maxh ∨
          virtw.toNat < visw.toNat ∨ virth.toNat < vish.toNat then .error .invalidSize else .ok () := by
  have e : ∀ v : BitVec 16, v = 0 ↔ v.toNat = 0 := fun v => by rw [← BitVec.toNat_inj]; rfl
  simp only [checkSizes, e]
  split_ifs <;> first | rfl | omega

/-- The index bound of CLUTENC (R124). -/
theorem checkRange_ok {start count : Nat} (h : start + count ≤ 256) : checkRange start count = .ok () := by
  simp [checkRange, Config.clutSize, Nat.not_lt.2 h]

theorem checkRange_error {start count : Nat} (h : start + count > 256) :
    checkRange start count = .error .indexOutOfRange := by simp [checkRange, Config.clutSize, h]

/-- The two checks of the alpha unit (R113). -/
theorem checkLayerAlpha_ok {s : State} {f : BitVec 5} (h : f.toNat < 24)
    (ht : s.params.catalog[f.toNat].tm = .layer) : checkLayerAlpha s f = .ok s.params.catalog[f.toNat] := by
  simp [checkLayerAlpha, checkFormat_ok h, layerAlpha, ht]; rfl

theorem checkLayerAlpha_error_format {s : State} {f : BitVec 5} (h : 24 ≤ f.toNat) :
    checkLayerAlpha s f = .error .unsupportedFormat := by simp [checkLayerAlpha, checkFormat_error h]

theorem checkLayerAlpha_error_mode {s : State} {f : BitVec 5} (h : f.toNat < 24)
    (ht : s.params.catalog[f.toNat].tm ≠ .layer) : checkLayerAlpha s f = .error .alphaNotSupported := by
  simp [checkLayerAlpha, checkFormat_ok h, layerAlpha, ht]; rfl

end Machine

end Sys2Proof
end

