-- ==== Sys2Proof/Laws/Decode.lean ====
section
/-! SUPPORT. The fields of a command word: a word is its four fields, and selecting a row is a condition on
the fields. -/

namespace Sys2Proof

/-- Bit `i` of four fields side by side. -/
theorem getLsbD_fields (op : BitVec 8) (l : BitVec 4) (z : BitVec 15) (f : BitVec 5) (i : Nat) :
    BitVec.getLsbD (w := 32) (op ++ l ++ z ++ f) i =
      if i < 5 then f.getLsbD i else if i < 20 then z.getLsbD (i - 5)
      else if i < 24 then l.getLsbD (i - 20) else op.getLsbD (i - 24) := by
  refine (BitVec.getLsbD_append ..).trans ?_
  rw [BitVec.getLsbD_append, BitVec.getLsbD_append]
  by_cases h1 : i < 5
  · simp [h1]
  · by_cases h2 : i < 20
    · simp [h1, h2, show i - 5 < 15 by omega]
    · by_cases h3 : i < 24
      · simp [h1, h2, h3, show ¬ i - 5 < 15 by omega, Nat.sub_sub, show i - 20 < 4 by omega]
      · simp [h1, h2, h3, show ¬ i - 5 < 15 by omega, Nat.sub_sub, show ¬ i - 20 < 4 by omega]

/-- A command word is its four fields side by side (R60). -/
theorem word_eq_fields (w : Word) : w = opField w ++ layerField w ++ zeroField w ++ fmtField w := by
  apply BitVec.eq_of_getLsbD_eq
  intro i hi
  refine Eq.trans ?_ (getLsbD_fields ..).symm
  interval_cases i <;> simp [opField, layerField, zeroField, fmtField]

/-- A command word built from fields, as the fields side by side. -/
theorem commandWord_eq (op : BitVec 8) (l : BitVec 4) (f : BitVec 5) :
    commandWord op l f = op ++ l ++ (0 : BitVec 15) ++ f := by
  apply BitVec.eq_of_getLsbD_eq
  intro i hi
  refine Eq.trans ?_ (getLsbD_fields ..).symm
  interval_cases i <;> simp [commandWord]

section
variable (op : BitVec 8) (l : BitVec 4) (z : BitVec 15) (f : BitVec 5)

/-- The fields of four fields side by side. -/
theorem fields_append : opField (op ++ l ++ z ++ f) = op ∧ layerField (op ++ l ++ z ++ f) = l ∧
    zeroField (op ++ l ++ z ++ f) = z ∧ fmtField (op ++ l ++ z ++ f) = f := by
  refine ⟨?_, ?_, ?_, ?_⟩ <;> apply BitVec.eq_of_getLsbD_eq <;> intro i hi <;>
    simp only [opField, layerField, zeroField, fmtField, BitVec.getLsbD_extractLsb', hi, decide_true,
      Bool.true_and] <;> refine (getLsbD_fields ..).trans ?_
  · simp [show ¬ 24 + i < 5 by omega, show ¬ 24 + i < 20 by omega]
  · simp [show ¬ 20 + i < 5 by omega, show 20 + i < 24 by omega]
  · simp [show 5 + i < 20 by omega]
  · simp [hi]

@[simp] theorem opField_commandWord : opField (commandWord op l f) = op := by
  rw [commandWord_eq]; exact (fields_append op l 0 f).1
@[simp] theorem layerField_commandWord : layerField (commandWord op l f) = l := by
  rw [commandWord_eq]; exact (fields_append op l 0 f).2.1
@[simp] theorem zeroField_commandWord : zeroField (commandWord op l f) = 0 := by
  rw [commandWord_eq]; exact (fields_append op l 0 f).2.2.1
@[simp] theorem fmtField_commandWord : fmtField (commandWord op l f) = f := by
  rw [commandWord_eq]; exact (fields_append op l 0 f).2.2.2

end

/-- A word with a zero `zero` field is the command word of its other fields. -/
theorem commandWord_fields {w : Word} (h : zeroField w = 0) :
    commandWord (opField w) (layerField w) (fmtField w) = w := by
  rw [commandWord_eq, ← h]; exact (word_eq_fields w).symm

/-- Two words with the same four fields are the same word. -/
theorem word_ext_fields {w v : Word} (ho : opField w = opField v) (hl : layerField w = layerField v)
    (hz : zeroField w = zeroField v) (hf : fmtField w = fmtField v) : w = v := by
  rw [word_eq_fields w, word_eq_fields v, ho, hl, hz, hf]

/-- A masked word has the masked fields. -/
theorem fields_and (w m : Word) : opField (w &&& m) = opField w &&& opField m ∧
    layerField (w &&& m) = layerField w &&& layerField m ∧
    zeroField (w &&& m) = zeroField w &&& zeroField m ∧ fmtField (w &&& m) = fmtField w &&& fmtField m := by
  refine ⟨?_, ?_, ?_, ?_⟩ <;> apply BitVec.eq_of_getLsbD_eq <;> intro i hi <;>
    simp [opField, layerField, zeroField, fmtField, hi]

/-- A row without a free field selects exactly its pattern's fields (R61). -/
theorem selects_plain_iff (op : BitVec 8) (b : BitVec 4 → BitVec 5 → Instr) (w : Word) :
    (OpcodeRow.mk (commandWord op 0 0) 0xFFFFFFFF b).selects w = true ↔
      opField w = op ∧ layerField w = 0 ∧ zeroField w = 0 ∧ fmtField w = 0 := by
  have hm : w &&& (0xFFFFFFFF : Word) = w := BitVec.and_allOnes (x := w)
  simp only [OpcodeRow.selects, beq_iff_eq, hm]
  constructor
  · rintro rfl; simp
  · rintro ⟨ho, hl, hz, hf⟩; exact word_ext_fields (by simp [ho]) (by simp [hl]) (by simp [hz]) (by simp [hf])

/-- A row with a free `layer` field selects on the other three (R61). -/
theorem selects_layer_iff (op : BitVec 8) (b : BitVec 4 → BitVec 5 → Instr) (w : Word) :
    (OpcodeRow.mk (commandWord op 0 0) 0xFF0FFFFF b).selects w = true ↔
      opField w = op ∧ zeroField w = 0 ∧ fmtField w = 0 := by
  obtain ⟨ho, hl, hz, hf⟩ := fields_and w 0xFF0FFFFF
  have mo : opField (0xFF0FFFFF : Word) = BitVec.allOnes 8 := by decide
  have ml : layerField (0xFF0FFFFF : Word) = 0 := by decide
  have mz : zeroField (0xFF0FFFFF : Word) = BitVec.allOnes 15 := by decide
  have mf : fmtField (0xFF0FFFFF : Word) = BitVec.allOnes 5 := by decide
  rw [mo, BitVec.and_allOnes] at ho
  rw [ml, show layerField w &&& 0 = 0 from BitVec.and_zero] at hl
  rw [mz, BitVec.and_allOnes] at hz
  rw [mf, BitVec.and_allOnes] at hf
  simp only [OpcodeRow.selects, beq_iff_eq]
  constructor
  · intro h; rw [h] at ho hz hf; simp at ho hz hf; exact ⟨ho.symm, hz.symm, hf.symm⟩
  · rintro ⟨rfl, h2, h3⟩
    exact word_ext_fields (ho.trans (by simp)) (hl.trans (by simp)) (hz.trans (by simp [h2])) (hf.trans (by simp [h3]))

/-- A row with a free `fmt` field selects on the other three (R61). -/
theorem selects_fmt_iff (op : BitVec 8) (b : BitVec 4 → BitVec 5 → Instr) (w : Word) :
    (OpcodeRow.mk (commandWord op 0 0) 0xFFFFFFE0 b).selects w = true ↔
      opField w = op ∧ layerField w = 0 ∧ zeroField w = 0 := by
  obtain ⟨ho, hl, hz, hf⟩ := fields_and w 0xFFFFFFE0
  have mo : opField (0xFFFFFFE0 : Word) = BitVec.allOnes 8 := by decide
  have ml : layerField (0xFFFFFFE0 : Word) = BitVec.allOnes 4 := by decide
  have mz : zeroField (0xFFFFFFE0 : Word) = BitVec.allOnes 15 := by decide
  have mf : fmtField (0xFFFFFFE0 : Word) = 0 := by decide
  rw [mo, BitVec.and_allOnes] at ho
  rw [ml, BitVec.and_allOnes] at hl
  rw [mz, BitVec.and_allOnes] at hz
  rw [mf, show fmtField w &&& 0 = 0 from BitVec.and_zero] at hf
  simp only [OpcodeRow.selects, beq_iff_eq]
  constructor
  · intro h; rw [h] at ho hl hz; simp at ho hl hz; exact ⟨ho.symm, hl.symm, hz.symm⟩
  · rintro ⟨rfl, h2, h3⟩
    exact word_ext_fields (ho.trans (by simp)) (hl.trans (by simp [h2])) (hz.trans (by simp [h3])) (hf.trans (by simp))

/-- The opcode map with its patterns as command words of the opcodes (R61). -/
theorem opcodeTable_eq : opcodeTable =
    [ ⟨commandWord 0x01 0 0, 0xFFFFFFFF, fun _ _ => .fmtres⟩,
      ⟨commandWord 0x02 0 0, 0xFF0FFFFF, fun l _ => .lcfg l⟩,
      ⟨commandWord 0x10 0 0, 0xFFFFFFFF, fun _ _ => .rgb2yuv⟩,
      ⟨commandWord 0x11 0 0, 0xFFFFFFFF, fun _ _ => .yuv2rgb⟩,
      ⟨commandWord 0x18 0 0, 0xFFFFFFE0, fun _ f => .alpha2hw f⟩,
      ⟨commandWord 0x19 0 0, 0xFFFFFFE0, fun _ f => .hw2alpha f⟩,
      ⟨commandWord 0x20 0 0, 0xFFFFFFE0, fun _ f => .pxenc f⟩,
      ⟨commandWord 0x21 0 0, 0xFFFFFFE0, fun _ f => .pxdec f⟩,
      ⟨commandWord 0x22 0 0, 0xFFFFFFE0, fun _ f => .clutenc f⟩,
      ⟨commandWord 0x30 0 0, 0xFF0FFFFF, fun l _ => .geoset l⟩,
      ⟨commandWord 0x31 0 0, 0xFF0FFFFF, fun l _ => .geoget l⟩,
      ⟨commandWord 0x38 0 0, 0xFF0FFFFF, fun l _ => .regrd l⟩,
      ⟨commandWord 0x39 0 0, 0xFF0FFFFF, fun l _ => .regwr l⟩ ] := rfl

/-- The opcode of an operation (R61). -/
def Instr.opcode : Instr → BitVec 8
  | .fmtres => 0x01
  | .lcfg _ => 0x02
  | .rgb2yuv => 0x10
  | .yuv2rgb => 0x11
  | .alpha2hw _ => 0x18
  | .hw2alpha _ => 0x19
  | .pxenc _ => 0x20
  | .pxdec _ => 0x21
  | .clutenc _ => 0x22
  | .geoset _ => 0x30
  | .geoget _ => 0x31
  | .regrd _ => 0x38
  | .regwr _ => 0x39

/-- The words that select an operation are exactly its command word: the selected operation, encoded, is the
word again. -/
theorem encode_of_selectRow {w : Word} {i : Instr} (h : selectRow w = some i) : encode i = w := by
  simp only [selectRow, opcodeTable_eq, List.find?_cons, Option.map_eq_some_iff] at h
  obtain ⟨row, hrow, rfl⟩ := h
  repeat' split at hrow
  all_goals first
    | (rename_i hs; obtain rfl := Option.some.inj hrow
       first
       | (obtain ⟨ho, hl, hz, hf⟩ := (selects_plain_iff _ _ _).1 hs
          exact word_ext_fields (by simp [encode, ho]) (by simp [encode, hl]) (by simp [encode, hz]) (by simp [encode, hf]))
       | (obtain ⟨ho, hz, hf⟩ := (selects_layer_iff _ _ _).1 hs
          exact word_ext_fields (by simp [encode, ho]) (by simp [encode]) (by simp [encode, hz]) (by simp [encode, hf]))
       | (obtain ⟨ho, hl, hz⟩ := (selects_fmt_iff _ _ _).1 hs
          exact word_ext_fields (by simp [encode, ho]) (by simp [encode, hl]) (by simp [encode, hz]) (by simp [encode])))
    | simp at hrow

/-- What decoding answers, by cases. -/
theorem decode_ok {n : Nat} {w : Word} {i : Instr} (h : decode n w = .ok i) :
    selectRow w = some i ∧ i.wf n = true := by
  unfold decode at h
  split at h
  · cases h
  · next j hj =>
    split at h
    · next hw => cases h; exact ⟨hj, hw⟩
    · cases h

end Sys2Proof
end

