-- ==== Sys2Proof/Laws/Exec.lean ====
section
/-! SUPPORT. What each operation can do, said once: every operation ends a command with `finish`, and one
inversion lemma for each operation says what a success means. -/

namespace Sys2Proof.Machine

/-- Every operation is some checks and effects, ended by `finish`. -/
theorem exec_eq_finish (i : Instr) (s : State) : ∃ x, exec i s = finish s x := by
  cases i with
  | rgb2yuv => exact ⟨.ok _, rfl⟩
  | yuv2rgb => exact ⟨.ok _, rfl⟩
  | _ => exact ⟨_, rfl⟩

/-- Every operation answers a next state. -/
theorem exec_next (i : Instr) (s : State) : ∃ t, exec i s = .next t := by
  obtain ⟨x, hx⟩ := exec_eq_finish i s
  obtain ⟨t, ht⟩ := finish_next s x
  exact ⟨t, hx.trans ht⟩

/-- An operation that leaves a non-zero `STATUS` changed nothing else (R173). -/
theorem exec_failing {i : Instr} {s t : State} (h : exec i s = .next t) (ht : t.status ≠ 0) :
    ∃ e, t = s.raise e := by
  obtain ⟨x, hx⟩ := exec_eq_finish i s
  obtain ⟨e, -, rfl⟩ := finish_failing (hx ▸ h) ht
  exact ⟨e, rfl⟩

/-- `STATUS` after an operation is one of the nine codes (R70). -/
theorem exec_status_le {i : Instr} {s t : State} (h : exec i s = .next t) : t.status.toNat ≤ 8 := by
  obtain ⟨x, hx⟩ := exec_eq_finish i s
  rcases finish_cases (hx ▸ h) with ⟨e, -, rfl⟩ | ⟨u, -, rfl⟩
  · exact statusOf_le e
  · simp [statusOk]

/-- Equal outcomes name equal states. -/
theorem next_inj {s t : State} (h : (.next s : Host.Outcome State Fault Refusal) = .next t) : s = t := by
  injection h

/-! ### Inversion, one for each operation: what a success means -/

theorem execFmtres_success {s t : State} (h : execFmtres s = .next t) (ht : t.status = 0) :
    ∃ id, checkRequest s = .ok id ∧ t = (s
      |>.setResult 0 (toWord id) |>.setResult 1 (toWord s.params.catalog[id].bpp)
      |>.setResult 2 (fieldImage s.params.catalog[id].ch0) |>.setResult 3 (fieldImage s.params.catalog[id].ch1)
      |>.setResult 4 (fieldImage s.params.catalog[id].ch2) |>.setResult 5 (fieldImage s.params.catalog[id].ch3)
      |>.setResult 6 (attributesImage s.params.catalog[id])).complete := by
  obtain ⟨u, hu, rfl⟩ := finish_succeeding h ht
  obtain ⟨id, hid, hu⟩ := except_bind_ok hu
  cases hu
  exact ⟨id, hid, rfl⟩

theorem execLcfg_success {l : BitVec 4} {s t : State} (h : execLcfg l s = .next t) (ht : t.status = 0) :
    l.toNat < s.params.nlayers ∧ ∃ id, checkRequest s = .ok id ∧
      checkSizes s.params (lowHalf (s.operand 4)) (highHalf (s.operand 4)) (lowHalf (s.operand 5))
        (highHalf (s.operand 5)) = .ok () ∧
      t = (s
        |>.setLayer l (configuredRecord id (lowHalf (s.operand 4)) (highHalf (s.operand 4))
          (lowHalf (s.operand 5)) (highHalf (s.operand 5)) (s.operand 6))
        |>.setResult 0 (toWord id) |>.setResult 1 (toWord s.params.catalog[id].bpp)).complete := by
  obtain ⟨u, hu, rfl⟩ := finish_succeeding h ht
  obtain ⟨_, hl, hu⟩ := except_bind_ok hu
  obtain ⟨id, hid, hu⟩ := except_bind_ok hu
  obtain ⟨_, hs, hu⟩ := except_bind_ok hu
  cases hu
  exact ⟨lt_of_checkLayer hl, id, hid, hs, rfl⟩

theorem execClutenc_success {f : BitVec 5} {s t : State} (h : execClutenc f s = .next t)
    (ht : t.status = 0) : ∃ F, checkFormat s f = .ok F ∧
      (s.operand 0).toNat + (s.operand 1).toNat ≤ 256 ∧
      t = (s.setClut (clutFill s.params F s.ebuf (s.operand 0).toNat (s.operand 1).toNat s.cbuf)).complete := by
  obtain ⟨u, hu, rfl⟩ := finish_succeeding h ht
  obtain ⟨F, hF, hu⟩ := except_bind_ok hu
  obtain ⟨_, hr, hu⟩ := except_bind_ok hu
  cases hu
  refine ⟨F, hF, ?_, rfl⟩
  by_contra hn
  simp [checkRange, Config.clutSize, Nat.lt_of_not_le hn] at hr

/-- What a successful GEOSET leaves, in terms of the record and the operands. -/
theorem execGeoset_success {l : BitVec 4} {s t : State} (h : execGeoset l s = .next t) (ht : t.status = 0) :
    ∃ g, l.toNat < s.params.nlayers ∧ (s.layer l).valid = true ∧
      validate (s.layer l) s.params.catalog[(s.layer l).fmt] s.geometryOperands = .ok g ∧
      t = (s
        |>.setLayer l { s.layer l with geo := g }
        |>.regWrites l (writeSequence s.params.gen (s.layer l) g
            (byteOffset (s.layer l) s.params.catalog[(s.layer l).fmt] g.xoff g.yoff))
        |>.setGeometryResults g
        |>.setResult 6 (byteOffset (s.layer l) s.params.catalog[(s.layer l).fmt] g.xoff g.yoff)).complete := by
  obtain ⟨u, hu, rfl⟩ := finish_succeeding h ht
  obtain ⟨L, hL, hu⟩ := except_bind_ok hu
  obtain ⟨hl, hv, rfl⟩ := checkConfigured_cases hL
  obtain ⟨g, hg, hu⟩ := except_bind_ok hu
  cases hu
  exact ⟨g, hl, hv, hg, rfl⟩

theorem execGeoget_success {l : BitVec 4} {s t : State} (h : execGeoget l s = .next t) (ht : t.status = 0) :
    l.toNat < s.params.nlayers ∧ (s.layer l).valid = true ∧
      t = ((readGeometry s l (s.layer l)).2.setGeometryResults (readGeometry s l (s.layer l)).1).complete := by
  obtain ⟨u, hu, rfl⟩ := finish_succeeding h ht
  obtain ⟨L, hL, hu⟩ := except_bind_ok hu
  obtain ⟨hl, hv, rfl⟩ := checkConfigured_cases hL
  cases hu
  exact ⟨hl, hv, rfl⟩

theorem execRegrd_success {l : BitVec 4} {s t : State} (h : execRegrd l s = .next t) (ht : t.status = 0) :
    ∃ c, l.toNat < s.params.nlayers ∧ (s.operand 0).toNat = c.number ∧
      t = ((s.regRead l c).2.setResult 0 (s.regRead l c).1).complete := by
  obtain ⟨u, hu, rfl⟩ := finish_succeeding h ht
  obtain ⟨_, hl, hu⟩ := except_bind_ok hu
  obtain ⟨c, hc, hu⟩ := except_bind_ok hu
  cases hu
  exact ⟨c, lt_of_checkLayer hl, (number_of_checkSlot hc).symm, rfl⟩

theorem execRegwr_success {l : BitVec 4} {s t : State} (h : execRegwr l s = .next t) (ht : t.status = 0) :
    ∃ c, l.toNat < s.params.nlayers ∧ (s.operand 0).toNat = c.number ∧
      t = (s.regWrite l c (s.operand 1)).complete := by
  obtain ⟨u, hu, rfl⟩ := finish_succeeding h ht
  obtain ⟨_, hl, hu⟩ := except_bind_ok hu
  obtain ⟨c, hc, hu⟩ := except_bind_ok hu
  cases hu
  exact ⟨c, lt_of_checkLayer hl, (number_of_checkSlot hc).symm, rfl⟩

/-! ### Results of several registers: one lemma for each field they leave alone -/

section
variable (s : State) (c : Colour) (g : Geometry)

@[simp] theorem State.setColour_params : (s.setColour c).params = s.params := rfl
@[simp] theorem State.setColour_cmd : (s.setColour c).cmd = s.cmd := rfl
@[simp] theorem State.setColour_status : (s.setColour c).status = s.status := rfl
@[simp] theorem State.setColour_a : (s.setColour c).a = s.a := rfl
@[simp] theorem State.setColour_ebuf : (s.setColour c).ebuf = s.ebuf := rfl
@[simp] theorem State.setColour_cbuf : (s.setColour c).cbuf = s.cbuf := rfl
@[simp] theorem State.setColour_layers : (s.setColour c).layers = s.layers := rfl
@[simp] theorem State.setColour_hw : (s.setColour c).hw = s.hw := rfl
@[simp] theorem State.setColour_events : (s.setColour c).events = s.events := rfl
@[simp] theorem State.setColour_pending : (s.setColour c).pending = s.pending := rfl
@[simp] theorem State.setColour_readData : (s.setColour c).readData = s.readData := rfl
@[simp] theorem State.setColour_answers : (s.setColour c).answers = s.answers := rfl
@[simp] theorem State.setColour_freeCount : (s.setColour c).freeCount = s.freeCount := rfl
@[simp] theorem State.setColour_r : (s.setColour c).r =
    ((s.r.set 1 (toWord c.p)).set 2 (toWord c.q)).set 3 (toWord c.t) := rfl
@[simp] theorem State.setGeometryResults_params : (s.setGeometryResults g).params = s.params := rfl
@[simp] theorem State.setGeometryResults_cmd : (s.setGeometryResults g).cmd = s.cmd := rfl
@[simp] theorem State.setGeometryResults_status : (s.setGeometryResults g).status = s.status := rfl
@[simp] theorem State.setGeometryResults_a : (s.setGeometryResults g).a = s.a := rfl
@[simp] theorem State.setGeometryResults_ebuf : (s.setGeometryResults g).ebuf = s.ebuf := rfl
@[simp] theorem State.setGeometryResults_cbuf : (s.setGeometryResults g).cbuf = s.cbuf := rfl
@[simp] theorem State.setGeometryResults_layers : (s.setGeometryResults g).layers = s.layers := rfl
@[simp] theorem State.setGeometryResults_hw : (s.setGeometryResults g).hw = s.hw := rfl
@[simp] theorem State.setGeometryResults_events : (s.setGeometryResults g).events = s.events := rfl
@[simp] theorem State.setGeometryResults_pending : (s.setGeometryResults g).pending = s.pending := rfl
@[simp] theorem State.setGeometryResults_readData : (s.setGeometryResults g).readData = s.readData := rfl
@[simp] theorem State.setGeometryResults_answers : (s.setGeometryResults g).answers = s.answers := rfl
@[simp] theorem State.setGeometryResults_freeCount : (s.setGeometryResults g).freeCount = s.freeCount := rfl
@[simp] theorem State.setGeometryResults_r : (s.setGeometryResults g).r =
    (((((s.r.set 0 g.x).set 1 g.y).set 2 g.w).set 3 g.h).set 4 g.xoff).set 5 g.yoff := rfl

end

/-! ### The reads of GEOGET -/

/-- From `s` to `u` only the history and the source of free values may have changed. -/
def OnlyReads (s u : State) : Prop :=
  u = { s with events := u.events, answers := u.answers, freeCount := u.freeCount }

theorem OnlyReads.trans {s u v : State} (h1 : OnlyReads s u) (h2 : OnlyReads u v) : OnlyReads s v := by
  refine Eq.trans h2 ?_
  rw [h1]

theorem onlyReads_regRead (s : State) (l : BitVec 4) (c : Slot) : OnlyReads s (s.regRead l c).2 := by
  unfold OnlyReads
  conv_lhs => rw [State.regRead_state]
  rw [State.regRead_state]

/-- GEOGET's reads change only the history and where the next free value comes from. -/
theorem onlyReads_readGeometry (s : State) (l : BitVec 4) (L : LayerRecord) :
    OnlyReads s (readGeometry s l L).2 := by
  have h4 : OnlyReads s ((((s.regRead l .hpos).2.regRead l .vpos).2.regRead l .hsize).2.regRead l .vsize).2 :=
    (((onlyReads_regRead ..).trans (onlyReads_regRead ..)).trans (onlyReads_regRead ..)).trans
      (onlyReads_regRead ..)
  unfold readGeometry
  cases s.params.gen with
  | offsetRegisters => exact (h4.trans (onlyReads_regRead ..)).trans (onlyReads_regRead ..)
  | dynamicAddressing => exact h4

section
variable (s : State) (l : BitVec 4) (L : LayerRecord)

@[simp] theorem readGeometry_params : (readGeometry s l L).2.params = s.params := by
  rw [onlyReads_readGeometry]
@[simp] theorem readGeometry_cmd : (readGeometry s l L).2.cmd = s.cmd := by
  rw [onlyReads_readGeometry]
@[simp] theorem readGeometry_status : (readGeometry s l L).2.status = s.status := by
  rw [onlyReads_readGeometry]
@[simp] theorem readGeometry_a : (readGeometry s l L).2.a = s.a := by
  rw [onlyReads_readGeometry]
@[simp] theorem readGeometry_r : (readGeometry s l L).2.r = s.r := by
  rw [onlyReads_readGeometry]
@[simp] theorem readGeometry_ebuf : (readGeometry s l L).2.ebuf = s.ebuf := by
  rw [onlyReads_readGeometry]
@[simp] theorem readGeometry_cbuf : (readGeometry s l L).2.cbuf = s.cbuf := by
  rw [onlyReads_readGeometry]
@[simp] theorem readGeometry_layers : (readGeometry s l L).2.layers = s.layers := by
  rw [onlyReads_readGeometry]
@[simp] theorem readGeometry_hw : (readGeometry s l L).2.hw = s.hw := by
  rw [onlyReads_readGeometry]
@[simp] theorem readGeometry_pending : (readGeometry s l L).2.pending = s.pending := by
  rw [onlyReads_readGeometry]
@[simp] theorem readGeometry_readData : (readGeometry s l L).2.readData = s.readData := by
  rw [onlyReads_readGeometry]

end

end Sys2Proof.Machine
end

