-- ==== Sys2Proof/Laws/PerInstr.lean ====
section
/-! SUPPORT. Statements about every operation as syntax, one lemma for each constructor. -/

namespace Sys2Proof.Laws

/-- The command word of an operation carries its opcode and its fields, and 0 in every other field
(30_encoding R60, R61). -/
def EncodeFields.Statement (i : Instr) : Prop :=
  opField (encode i) = i.opcode ∧ layerField (encode i) = i.layer?.getD 0 ∧ zeroField (encode i) = 0 ∧
    fmtField (encode i) = i.fmt?.getD 0

/-- The four fields of a command word, at once. -/
theorem encodeFields (op : BitVec 8) (l : BitVec 4) (f : BitVec 5) :
    opField (commandWord op l f) = op ∧ layerField (commandWord op l f) = l ∧
      zeroField (commandWord op l f) = 0 ∧ fmtField (commandWord op l f) = f :=
  ⟨opField_commandWord op l f, layerField_commandWord op l f, zeroField_commandWord op l f,
    fmtField_commandWord op l f⟩

theorem EncodeFields.fmtres : EncodeFields.Statement .fmtres := 
  encodeFields _ _ _

theorem EncodeFields.lcfg (l : BitVec 4) : EncodeFields.Statement (.lcfg l) := 
  encodeFields _ _ _

theorem EncodeFields.rgb2yuv : EncodeFields.Statement .rgb2yuv := 
  encodeFields _ _ _

theorem EncodeFields.yuv2rgb : EncodeFields.Statement .yuv2rgb := 
  encodeFields _ _ _

theorem EncodeFields.alpha2hw (f : BitVec 5) : EncodeFields.Statement (.alpha2hw f) := 
  encodeFields _ _ _

theorem EncodeFields.hw2alpha (f : BitVec 5) : EncodeFields.Statement (.hw2alpha f) := 
  encodeFields _ _ _

theorem EncodeFields.pxenc (f : BitVec 5) : EncodeFields.Statement (.pxenc f) := 
  encodeFields _ _ _

theorem EncodeFields.pxdec (f : BitVec 5) : EncodeFields.Statement (.pxdec f) := 
  encodeFields _ _ _

theorem EncodeFields.clutenc (f : BitVec 5) : EncodeFields.Statement (.clutenc f) := 
  encodeFields _ _ _

theorem EncodeFields.geoset (l : BitVec 4) : EncodeFields.Statement (.geoset l) := 
  encodeFields _ _ _

theorem EncodeFields.geoget (l : BitVec 4) : EncodeFields.Statement (.geoget l) := 
  encodeFields _ _ _

theorem EncodeFields.regrd (l : BitVec 4) : EncodeFields.Statement (.regrd l) := 
  encodeFields _ _ _

theorem EncodeFields.regwr (l : BitVec 4) : EncodeFields.Statement (.regwr l) := 
  encodeFields _ _ _

end Sys2Proof.Laws
end

