-- ==== Sys2Proof/Laws/Step.lean ====
section
/-! SUPPORT. What one step does, by the host action it serves, and where each host offset leads. -/

namespace Sys2Proof.Machine

/-! ### The register at an offset (R41) -/

theorem hostRegAt_operand (i : Fin 8) : hostRegAt ((0x020 + 4 * i.val) / 4) = .operand i := by
  revert i; decide

theorem hostRegAt_result (i : Fin 8) : hostRegAt ((0x040 + 4 * i.val) / 4) = .result i := by
  revert i; decide

theorem hostRegAt_entry (i : Fin 256) : hostRegAt ((0x400 + 4 * i.val) / 4) = .entry i := by
  have h := i.isLt
  have e : (0x400 + 4 * i.val) / 4 = 0x100 + i.val := by omega
  rw [e]
  simp [hostRegAt, show ¬ 0x100 + i.val < 0x100 by omega, show ¬ 0x100 + i.val < 0x18 by omega,
    show ¬ 0x100 + i.val < 0x10 by omega, show ¬ 0x100 + i.val < 0x08 by omega,
    show 0x100 + i.val < 0x200 by omega, show 0x100 + i.val ≠ 1 by omega, show 0x100 + i.val ≠ 2 by omega]

theorem hostRegAt_clut (i : Fin 256) : hostRegAt ((0x800 + 4 * i.val) / 4) = .clut i := by
  have h := i.isLt
  have e : (0x800 + 4 * i.val) / 4 = 0x200 + i.val := by omega
  rw [e]
  simp [hostRegAt, show ¬ 0x200 + i.val < 0x100 by omega, show ¬ 0x200 + i.val < 0x18 by omega,
    show ¬ 0x200 + i.val < 0x10 by omega, show ¬ 0x200 + i.val < 0x08 by omega,
    show ¬ 0x200 + i.val < 0x200 by omega, show 0x200 + i.val ≠ 1 by omega, show 0x200 + i.val ≠ 2 by omega]

/-- The two reserved ranges (R53). -/
theorem hostRegAt_reserved {k : Nat} (h : (3 ≤ k ∧ k < 0x08) ∨ (0x18 ≤ k ∧ k < 0x100)) :
    hostRegAt k = .reserved := by
  rcases h with ⟨h1, h2⟩ | ⟨h1, h2⟩
  · simp [hostRegAt, h2, show k ≠ 0 by omega, show k ≠ 1 by omega, show k ≠ 2 by omega]
  · simp [hostRegAt, h2, show k ≠ 0 by omega, show k ≠ 1 by omega, show k ≠ 2 by omega,
      show ¬ k < 0x08 by omega, show ¬ k < 0x10 by omega, show ¬ k < 0x18 by omega]

/-! ### One step -/

/-- A legal access reaches its register. -/
theorem hostTarget_ok {offset : Nat} (h4 : offset % 4 = 0) (hlt : offset < 0xC00) :
    hostTarget 32 offset = .ok (hostRegAt (offset / 4)) := by
  simp [hostTarget, h4, Nat.not_le.2 hlt]

theorem step_write {s : State} {offset : Nat} {v : Word} {rest : List HostAction}
    (h : s.pending = .write 32 offset v :: rest) (h4 : offset % 4 = 0) (hlt : offset < 0xC00) :
    step s = hostWrite (hostRegAt (offset / 4)) v (s.setPending rest) := by
  simp only [step, stepHost, h, serve, hostTarget_ok h4 hlt]

theorem step_read {s : State} {offset : Nat} {rest : List HostAction}
    (h : s.pending = .read 32 offset :: rest) (h4 : offset % 4 = 0) (hlt : offset < 0xC00) :
    step s = .next ((hostRead (hostRegAt (offset / 4)) (s.setPending rest)).2.setReadData
      (hostRead (hostRegAt (offset / 4)) (s.setPending rest)).1) := by
  simp only [step, stepHost, h, serve, hostTarget_ok h4 hlt]

theorem step_writeBack {s : State} {offset : Nat} {rest : List HostAction}
    (h : s.pending = .writeBack 32 offset :: rest) (h4 : offset % 4 = 0) (hlt : offset < 0xC00) :
    step s = hostWrite (hostRegAt (offset / 4)) s.readData (s.setPending rest) := by
  simp only [step, stepHost, h, serve, hostTarget_ok h4 hlt, State.setPending_readData]

/-- A write of `CMD` runs the command word. -/
theorem step_command {s : State} {w : Word} {rest : List HostAction}
    (h : s.pending = .write 32 0x000 w :: rest) : step s = runCommand w (s.setPending rest) :=
  step_write h (by decide) (by decide)

theorem step_reset {s : State} {rest : List HostAction} (h : s.pending = .reset :: rest) :
    step s = .next (s.setPending rest).resetEvent := by simp only [step, stepHost, h, serve]

theorem step_idle {s : State} (h : s.pending = []) : step s = .next s := by simp only [step, stepHost, h]

/-- The two ways a command word runs (R62, R63). -/
theorem runCommand_cases (w : Word) (s : State) :
    (∃ i, decode s.params.nlayers w = .ok i ∧ runCommand w s = exec i (s.setCmd w)) ∨
    ((∃ e, decode s.params.nlayers w = .error e) ∧
      runCommand w s = .next ((s.setCmd w).raise .illegalCommand)) := by
  unfold runCommand
  cases h : decode s.params.nlayers w with
  | ok i => exact .inl ⟨i, rfl, rfl⟩
  | error e => exact .inr ⟨⟨e, rfl⟩, rfl⟩

/-! ### Runs -/

theorem run_zero (s : State) : Host.Core.run core 0 s = .next s := rfl

/-- A run is one step and the rest of the run. -/
theorem run_succ {s t : State} (h : step s = .next t) (k : Nat) :
    Host.Core.run core (k + 1) s = Host.Core.run core k t := by
  have h' : core.step s = .next t := h
  simp only [Host.Core.run, h']

end Sys2Proof.Machine
end

