-- ==== Sys2Proof/Tests/Slice0.lean ====
section
/-! SUPPORT. The model's own tests. Expected values come from the examples of the spec's rules and from
spec/95_test_vectors.md; then, for each obligation with hypotheses, a state and operands that meet them. -/

namespace Sys2Proof.Tests

open Sys2Proof.Machine Sys2Proof.Safety Sys2Proof.Claims

set_option Elab.async false

/-! ### Small states -/

/-- The state after reset with the first operand registers loaded. -/
def loaded (xs : List Word) : State := { State.reset with a := Vector.ofFn fun i => xs.getD i.val 0 }

/-- Layer 0 configured as YUYV (4:2:2, 16 bits), 1920 by 1080 in a buffer 2048 wide at 0x30000000. -/
def yuyvRecord : LayerRecord := ⟨true, 14, 1920, 1080, 2048, 1080, 0x30000000, ⟨0, 0, 1920, 1080, 0, 0⟩⟩

def configured (gen : Gen) (xs : List Word) : State :=
  { loaded xs with
    params := { defaultParams with gen := gen }
    layers := State.reset.layers.set 0 yuyvRecord }

/-- The state with the given host actions pending. -/
def hosted (acts : List HostAction) : State := { State.reset with pending := acts }

/-- The state after an operation. -/
def after (i : Instr) (s : State) : State :=
  match exec i s with
  | .next t => t
  | .fault _ => s
  | .refused _ => s

theorem exec_after (i : Instr) (s : State) : exec i s = .next (after i s) := by
  obtain ⟨t, h⟩ := exec_next i s
  simp [after, h]

/-- `R0..R7` after an operation. -/
def results (i : Instr) (s : State) : List Word := (after i s).r.toList

/-! ### WellFormed: each layer operation refuses a layer the block does not have -/

theorem test_wf_lcfg : (Instr.lcfg 2).wf 2 = false ∧ (Instr.lcfg 1).wf 2 = true := by decide
theorem test_wf_geoset : (Instr.geoset 15).wf 15 = false ∧ (Instr.geoset 15).wf 16 = true := by decide
theorem test_wf_geoget : (Instr.geoget 1).wf 1 = false ∧ (Instr.geoget 0).wf 1 = true := by decide
theorem test_wf_regrd : (Instr.regrd 3).wf 2 = false ∧ (Instr.regrd 0).wf 2 = true := by decide
theorem test_wf_regwr : (Instr.regwr 2).wf 2 = false ∧ (Instr.regwr 1).wf 2 = true := by decide
theorem test_wf_others : (Instr.fmtres).wf 1 = true ∧ (Instr.pxenc 31).wf 1 = true := by decide

/-! ### Decoding: one word for each operation, written out from R60 and R61 -/

theorem test_decode_fmtres : decode 2 0b00000001_0000_000000000000000_00000 = .ok .fmtres := by decide
theorem test_decode_lcfg : decode 2 0b00000010_0001_000000000000000_00000 = .ok (.lcfg 1) := by decide
theorem test_decode_rgb2yuv : decode 2 0b00010000_0000_000000000000000_00000 = .ok .rgb2yuv := by decide
theorem test_decode_yuv2rgb : decode 2 0b00010001_0000_000000000000000_00000 = .ok .yuv2rgb := by decide
theorem test_decode_alpha2hw : decode 2 0b00011000_0000_000000000000000_00110 = .ok (.alpha2hw 6) := by decide
theorem test_decode_hw2alpha : decode 2 0b00011001_0000_000000000000000_11111 = .ok (.hw2alpha 31) := by decide
theorem test_decode_pxenc : decode 2 0b00100000_0000_000000000000000_10111 = .ok (.pxenc 23) := by decide
theorem test_decode_pxdec : decode 2 0b00100001_0000_000000000000000_00001 = .ok (.pxdec 1) := by decide
theorem test_decode_clutenc : decode 2 0b00100010_0000_000000000000000_00011 = .ok (.clutenc 3) := by decide
theorem test_decode_geoset : decode 16 0b00110000_1111_000000000000000_00000 = .ok (.geoset 15) := by decide
theorem test_decode_geoget : decode 2 0b00110001_0001_000000000000000_00000 = .ok (.geoget 1) := by decide
theorem test_decode_regrd : decode 2 0b00111000_0000_000000000000000_00000 = .ok (.regrd 0) := by decide
theorem test_decode_regwr : decode 2 0b00111001_0001_000000000000000_00000 = .ok (.regwr 1) := by decide

/-- R63: an unknown `op`, a non-zero `zero`, `layer` or `fmt` field where there is none, a layer too high. -/
theorem test_decode_illegal : decode 2 0x00000000 = .error .noRow ∧ decode 2 0x01000020 = .error .noRow ∧
    decode 2 0x01100000 = .error .noRow ∧ decode 2 0x30000001 = .error .noRow ∧
    decode 2 0x20100003 = .error .noRow ∧ decode 2 0x30200000 = .error .layerOutOfRange := by decide

theorem test_tableWord : decodeTableWord 32 0x39100000 = some (.regwr 1) ∧
    decodeTableWord 8 0x139 = none := by decide

/-! ### The default parameters -/

theorem test_default_params : paramsWf defaultParams = true := by decide +kernel

/-! ### One step of each operation -/

/-- R84's example, RGB565, and a key without a row. -/
theorem test_fmtres : results .fmtres (loaded [0, 16, 0, 0]) = [6, 16, 0, 0x050B, 0x0605, 0x0500, 0x26000, 0] := by
  decide +kernel
theorem test_fmtres_none : (after .fmtres (loaded [0, 32, 1, 0])).status = 1 := by decide +kernel

/-- R86's example. -/
theorem test_lcfg : (after (.lcfg 0) (loaded [1, 16, 0, 0, 0x04380780, 0x04380800, 0x30000000])).layer 0 =
    yuyvRecord ∧ (after (.lcfg 0) (loaded [1, 16, 0, 0, 0x04380780, 0x04380800, 0x30000000])).r[0] = 14 := by
  decide +kernel
theorem test_lcfg_size : (after (.lcfg 0) (loaded [1, 16, 0, 0, 0, 0x04380800])).status = 4 := by decide +kernel

/-- R101's red and R105's way back. -/
theorem test_rgb2yuv : results .rgb2yuv (loaded [0, 255, 0, 0x100]) = [0, 76, 84, 255, 0, 0, 0, 0] := by
  decide +kernel
theorem test_yuv2rgb : results .yuv2rgb (loaded [0, 76, 84, 255]) = [0, 254, 0, 0, 0, 0, 0, 0] := by
  decide +kernel

theorem test_alpha2hw : (after (.alpha2hw 8) (loaded [512])).r[0] = 127 := by decide +kernel
theorem test_alpha2hw_mode : (after (.alpha2hw 12) (loaded [512])).status = 2 := by decide +kernel
theorem test_hw2alpha : (after (.hw2alpha 8) (loaded [127])).r[0] = 511 := by decide +kernel
theorem test_hw2alpha_bias : (after (.hw2alpha 6) (loaded [31])).r[0] = 512 := by decide +kernel

theorem test_pxenc : (after (.pxenc 13) (loaded [0x80, 0x12, 0x34, 0x56])).r[0] = 0x80563412 := by
  decide +kernel
theorem test_pxenc_conv : (after (.pxenc 3) (loaded [0xFF, 255, 0, 0])).r[0] = 0xFF4C54FF := by decide +kernel
theorem test_pxdec : results (.pxdec 6) (loaded [0xFFFF07E0]) = [0, 0, 63, 0, 0, 0, 0, 0] := by decide +kernel
theorem test_pxdec_format : (after (.pxdec 24) (loaded [0])).status = 1 := by decide +kernel

theorem test_clutenc : (after (.clutenc 3)
    { loaded [7, 1] with ebuf := State.reset.ebuf.set 0 0x80102030 }).cbuf[7] = 0x801D8A76 := by decide +kernel
theorem test_clutenc_range : (after (.clutenc 2) (loaded [250, 10])).status = 5 := by decide +kernel

/-- R141's first example: results, and the writes in the order of R144. -/
theorem test_geoset : results (.geoset 0) (configured .offsetRegisters [10, 10, 2000, 2000, 16, 2]) =
    [10, 10, 1910, 1070, 16, 2, 0x2020, 0] ∧
    (after (.geoset 0) (configured .offsetRegisters [10, 10, 2000, 2000, 16, 2])).events =
      [.regWrite 0 .hoff 16, .regWrite 0 .voff 2, .regWrite 0 .hsize 1909, .regWrite 0 .vsize 1069,
       .regWrite 0 .hpos 1909, .regWrite 0 .vpos 1069] := by decide +kernel
/-- R145 and R146: width 101 becomes 100; the address is the last write; position at the edge. -/
theorem test_geoset_address : (after (.geoset 0) (configured .dynamicAddressing [0, 1080, 101, 1, 16, 2])).events =
    [.regWrite 0 .hsize 99, .regWrite 0 .vsize 0xFFFFFFFF, .regWrite 0 .hpos 1919,
     .regWrite 0 .vpos 0xFFFFFFFF, .regWrite 0 .addr 0x30002020] := by decide +kernel

/-- R148's example: `HPOS = 1914` on a 1920-wide layer is `x = 5`; `HSIZE = 0xFFFFFFFF` is width 0. -/
theorem test_geoget : results (.geoget 0) { configured .dynamicAddressing [] with
    hw := [(2, 1914), (3, 1079), (4, 0xFFFFFFFF), (5, 0)] } = [5, 0, 0, 1, 0, 0, 0, 0] := by decide +kernel
theorem test_geoget_unconfigured : (after (.geoget 0) (loaded [])).status = 7 := by decide +kernel

theorem test_regrd : (after (.regrd 0) { loaded [2] with hw := [(2, 1914)] }).r[0] = 1914 := by decide +kernel
theorem test_regrd_slot : (after (.regrd 0) (loaded [0x00010002])).status = 6 := by decide +kernel
theorem test_regwr : (after (.regwr 1) (loaded [6, 127])).events = [.regWrite 1 .alpha 127] ∧
    (after (.regwr 1) (loaded [6, 127])).hw = [(16, 127)] := by decide +kernel
theorem test_regwr_slot : (after (.regwr 1) (loaded [10, 127])).events = [] := by decide +kernel

/-- The named formats carry the ids of the catalog (R81). -/
theorem test_namedFormats : namedFormats.map (·.2.toNat) = List.range 24 := by decide

/-! ### Witnesses: hypotheses of the obligations, met -/

theorem witness_StepRunsTheDecodedCommand :
    Issues (hosted [issue 0x01000000]) 0x01000000 [] ∧ decode State.reset.params.nlayers 0x01000000 = .ok .fmtres ∧
    (∃ s : State, s.pending = [.writeBack 32 0x000] ∧ s.readData = 0x01000000) :=
  ⟨rfl, by decide, { hosted [.writeBack 32 0x000] with readData := 0x01000000 }, rfl, rfl⟩

theorem witness_CommandRegisterHoldsTheLastWord :
    Issues (hosted [issue 0, rd 0]) 0 [rd 0] ∧ decode State.reset.params.nlayers 0 = .error .noRow ∧
    (hosted [rd 0]).pending = .read 32 0x000 :: [] := ⟨rfl, by decide, rfl⟩

theorem witness_IdleBlockKeepsItsState : State.reset.pending = [] := rfl

/-- Each way to miss the rows, a layer at the bound, and the highest legal layer. -/
theorem witness_IllegalWordDoesNothingButRaise :
    ¬ MatchesRow 0 ∧ ¬ MatchesRow 0x01000020 ∧ ¬ MatchesRow 0x01100000 ∧ ¬ MatchesRow 0x02000001 ∧
    (MatchesRow 0x02200000 ∧ LayerOutOfRange 2 0x02200000) ∧
    (MatchesRow 0x02100000 ∧ ¬ LayerOutOfRange 2 0x02100000) ∧ MatchesRow 0x2200001F ∧
    Issues (hosted [issue 0]) 0 [] :=
  ⟨by decide, by decide, by decide, by decide, by decide, by decide, by decide, rfl⟩

theorem witness_DecodeAndEncodeAgree : (Instr.lcfg 15).wf 16 = true ∧ (Instr.lcfg 15).wf 15 = false ∧
    decode 2 0x39100000 = .ok (.regwr 1) := by decide

theorem witness_FailingCommandChangesOnlyStatus :
    ∃ t, Issues (hosted [issue 0x30000000]) 0x30000000 [] ∧ step (hosted [issue 0x30000000]) = .next t ∧
      t.status ≠ 0 :=
  ⟨after (.geoset 0) { State.reset with cmd := 0x30000000 }, rfl,
    (by rw [← exec_after]; rfl), by decide +kernel⟩

theorem witness_FirstFailingCheckDeterminesTheCode :
    firstError (loaded []) 0 = 8 ∧ firstError (loaded []) 0x02200000 = 8 ∧ firstError (loaded []) 0x2000001F = 1 ∧
    firstError (loaded []) 0x30000000 = 7 ∧ firstError (configured .offsetRegisters [1921, 0, 0, 0]) 0x30000000 = 3 ∧
    firstError (configured .offsetRegisters [1920, 0, 0, 1]) 0x30000000 = 4 ∧
    firstError (configured .offsetRegisters [1920, 0, 1, 1]) 0x30000000 = 0 ∧
    firstError (loaded [257, 0]) 0x22000002 = 5 ∧ firstError (loaded [256, 0]) 0x22000002 = 0 ∧
    firstError (loaded [10]) 0x38000000 = 6 ∧ firstError (loaded [9]) 0x39100000 = 0 ∧
    firstError (loaded []) 0x18000000 = 2 ∧ firstError (loaded [0, 32, 0, 0]) 0x01000000 = 1 ∧
    firstError (loaded [0, 16, 0, 0]) 0x02000000 = 4 := by decide +kernel

theorem witness_StatusRegisterIsNotSticky : (hosted [.write 32 4 7]).pending = [.write 32 0x004 7] ∧
    (hosted [rd 4]).pending = [.read 32 0x004] ∧ Issues (hosted [issue 1]) 1 [] := ⟨rfl, rfl, rfl⟩

theorem witness_ReissuedFailureFailsAgain :
    ∃ t, exec (.regrd 0) (loaded [10]) = .next t ∧ t.status ≠ 0 :=
  ⟨_, exec_after _ _, by decide +kernel⟩

/-- For OperationsNeverWriteTheHostsSide, UnnamedResultsKeepTheirValue, UnnamedOperandsHaveNoInfluence,
PureOperationsTouchOnlyResultsAndStatus and FramesOfTheOtherOperations: every operation reaches a next state. -/
theorem witness_frames (i : Instr) : ∃ t, exec i (configured .offsetRegisters [0, 0, 4, 4]) = .next t :=
  ⟨_, exec_after _ _⟩

theorem witness_UnnamedResultsKeepTheirValue : (7 : Fin 8) ∉ writtenResults .fmtres ∧
    (0 : Fin 8) ∉ writtenResults .rgb2yuv ∧ (0 : Fin 8) ∉ writtenResults (.regwr 0) := by decide

theorem witness_UnnamedOperandsHaveNoInfluence : ∀ k ∈ namedOperands .rgb2yuv,
    ((loaded [9, 1, 2, 3]).a.set 0 8)[k] = (loaded [9, 1, 2, 3]).a[k] := by decide +kernel

theorem witness_PureOperationsTouchOnlyResultsAndStatus : IsPure .fmtres ∧ IsPure (.pxdec 0) :=
  ⟨trivial, trivial⟩

theorem witness_FramesOfTheOtherOperations : (1 : BitVec 4) ≠ 0 ∧
    (∀ w ∈ geometryWrites (configured .offsetRegisters [0, 0, 4, 4]) 0, 6 ≠ slotKey 0 w.1) ∧
    9 ≠ Config.layerNregs * (0 : BitVec 4).toNat + (loaded [8]).a[0].toNat := by decide +kernel

theorem witness_FmtresReturnsTheDescriptor : paramsWf (loaded []).params = true ∧
    RowMatches (loaded [2, 8, 1, 0]).params.catalog[0] (loaded [2, 8, 1, 0]) ∧
    RowMatches (loaded [1, 24, 1, 1]).params.catalog[23] (loaded [1, 24, 1, 1]) ∧
    ∀ id : Fin 24, ¬ RowMatches (loaded [3, 0, 0, 2]).params.catalog[id] (loaded [3, 0, 0, 2]) := by
  decide +kernel

/-- A request without a row, sizes refused at each bound and accepted at the maximum, on the last layer. -/
theorem witness_LcfgConfiguresTheLayer : (1 : BitVec 4).toNat < State.reset.params.nlayers ∧
    (∀ id : Fin 24, ¬ RowMatches (loaded []).params.catalog[id] (loaded [])) ∧
    RowMatches (loaded [0, 16, 0, 0]).params.catalog[6] (loaded [0, 16, 0, 0]) ∧
    BadSizes (loaded [0, 16, 0, 0, 0x00010000, 0xFFFFFFFF]) ∧
    BadSizes (loaded [0, 16, 0, 0, 0x00000001, 0xFFFFFFFF]) ∧
    BadSizes (loaded [0, 16, 0, 0, 0x00010801, 0xFFFFFFFF]) ∧
    BadSizes (loaded [0, 16, 0, 0, 0x00010002, 0x00010001]) ∧
    ¬ BadSizes (loaded [0, 16, 0, 0, 0x08000800, 0x08000800]) := by decide +kernel

/-- Layer 2 is the first that a block of two layers does not have. -/
theorem witness_AbsentLayerFailsEveryLayerOperation : State.reset.params.nlayers ≤ (2 : BitVec 4).toNat := by
  decide

/-- The default reverse records of both profiles have a positive normalisation constant. -/
theorem witness_Yuv2rgbComputesTheReverseFormula : 0 < (revInForce defaultParams).norm.toInt ∧
    0 < (revInForce { defaultParams with profile := .itu656 }).norm.toInt := by decide +kernel

theorem witness_DefaultForwardPresetsNeverSaturate :
    quotientY defaultFwdStandard 255 255 255 = 255 ∧ quotientU defaultFwdStandard 255 255 0 = 0 ∧
    quotientV defaultFwdItu656 0 255 255 = 15 := by decide +kernel

/-- For Alpha2hwScalesDown, Hw2alphaScalesUp and RawAlphaSurvivesTheRoundTrip: `fmt` 24 does not exist, 23 has no
layer alpha, 21 has one. -/
theorem witness_Alpha : 24 ≤ (24 : BitVec 5).toNat ∧
    State.reset.params.catalog[(23 : BitVec 5).toNat].tm ≠ .layer ∧
    State.reset.params.catalog[(21 : BitVec 5).toNat].tm = .layer ∧
    (∃ t, exec (.hw2alpha 21) State.reset = .next t) ∧ paramsWf State.reset.params = true :=
  ⟨by decide, by decide +kernel, by decide +kernel, ⟨_, exec_after _ _⟩, by decide +kernel⟩

theorem witness_NormalisedAlphaReturnsWithinBounds :
    ((3, 127) : Nat × Nat) ∈ [(3, 127), (6, 16), (8, 3), (10, 0)] ∧ 1023 ≤ 1023 ∧ fromHw (toHw 0 3) 3 = 127 := by
  decide

/-- For PxencPacksTheChannels, PackedWordHoldsEveryChannel, PxdecUnpacksTheChannels, CodecRoundTripIsLossless and
DefaultAyuvRowGivesBackTheConvertedColour: `fmt` 31 does not exist; row 23 does not convert, row 3 does. -/
theorem witness_Codec : 24 ≤ (31 : BitVec 5).toNat ∧ (23 : BitVec 5).toNat < 24 ∧
    State.reset.params.catalog[(23 : BitVec 5).toNat].conv = false ∧
    State.reset.params.catalog[(3 : BitVec 5).toNat].conv = true ∧
    State.reset.params.catalog = defaultCatalog ∧ formatWf State.reset.params.catalog[6] = true ∧
    paramsWf State.reset.params = true ∧ (∃ t, exec (.pxenc 3) State.reset = .next t) :=
  ⟨by decide, by decide, by decide +kernel, by decide +kernel, rfl, by decide +kernel, by decide +kernel,
    ⟨_, exec_after _ _⟩⟩

/-- Bit 16 of an RGB565 word belongs to no channel. -/
theorem witness_PackedWordHoldsEveryChannel : OutsideFields State.reset.params.catalog[6] 16 := by
  intro c hc
  have h : c ∈ [(⟨0, 0⟩ : ChannelField), ⟨11, 5⟩, ⟨5, 6⟩, ⟨0, 5⟩] := hc
  simp only [List.mem_cons, List.not_mem_nil, or_false] at h
  rcases h with rfl | rfl | rfl | rfl <;> decide

/-- The sum 257 fails, the sum 256 is the last to succeed: entry 255 at index 255, and a word outside. -/
theorem witness_ClutencFillsExactlyTheRange : (loaded [257, 0]).a[0].toNat + (loaded [257, 0]).a[1].toNat > 256 ∧
    (loaded [0, 256]).a[0].toNat + (loaded [0, 256]).a[1].toNat ≤ 256 ∧
    (255 : Fin 256).val < (loaded [0, 256]).a[1].toNat ∧
    (255 : Fin 256).val = (loaded [0, 256]).a[0].toNat + (255 : Fin 256).val ∧
    (255 : Fin 256).val < (loaded [256, 0]).a[0].toNat ∧
    (loaded [1, 1]).a[0].toNat + (loaded [1, 1]).a[1].toNat ≤ (2 : Fin 256).val := by decide +kernel

/-- Layer 1 is not configured; `x = 1921` is refused and `x = 1920` is not. -/
theorem witness_GeosetAppliesTheClampedRequest :
    (1 : BitVec 4).toNat < (configured .offsetRegisters []).params.nlayers ∧
    ((configured .offsetRegisters []).layer 1).valid = false ∧
    ((configured .offsetRegisters []).layer 0).valid = true ∧
    BadPosition (configured .offsetRegisters [1921, 0, 1, 1]) 0 ∧
    BadPosition (configured .offsetRegisters [0, 1081, 1, 1]) 0 ∧
    ¬ BadPosition (configured .offsetRegisters [1920, 1080, 0, 1]) 0 ∧
    EmptyRequest (configured .offsetRegisters [1920, 1080, 0, 1]) ∧
    ¬ BadPosition (configured .dynamicAddressing [1920, 1080, 1, 1]) 0 ∧
    ¬ EmptyRequest (configured .dynamicAddressing [1920, 1080, 1, 1]) := by decide +kernel

/-- On a 4:2:2 format, up to the far corner: an odd width that fits, and a height that fits. -/
theorem witness_ClampedGeometryFitsTheVisibleArea :
    ∃ t, exec (.geoset 0) (configured .offsetRegisters [1917, 1079, 3, 1]) = .next t ∧ t.status = 0 ∧
      (layerFormat (configured .offsetRegisters [1917, 1079, 3, 1]) 0).is422 = true ∧
      1917 + 3 ≤ ((configured .offsetRegisters []).layer 0).visw.toNat ∧
      1079 + 1 ≤ ((configured .offsetRegisters []).layer 0).vish.toNat :=
  ⟨_, exec_after _ _, by decide +kernel, by decide +kernel, by decide +kernel, by decide +kernel⟩

/-- Layer 0 is configured, layer 1 is not. -/
theorem witness_GeogetDecodesWhateverIsRead :
    (1 : BitVec 4).toNat < (configured .offsetRegisters []).params.nlayers ∧
    ((configured .offsetRegisters []).layer 0).valid = true ∧
    ((configured .offsetRegisters []).layer 1).valid = false := by decide +kernel

theorem witness_RegisterEncodingsInvertExactly : (1919 : Word).toNat < (1920 : BitVec 16).toNat := by decide

/-- A successful GEOSET, and a quiet step after it. -/
theorem witness_GeogetRecoversTheLastGeoset :
    ∃ t, exec (.geoset 0) (configured .offsetRegisters [5, 0, 8, 8]) = .next t ∧ t.status = 0 ∧
      t.params.collab = .shadow ∧ QuietStep 0 t t := by
  refine ⟨_, exec_after _ _, by decide +kernel, by decide +kernel, ?_⟩
  have hp : (after (.geoset 0) (configured .offsetRegisters [5, 0, 8, 8])).pending = [] := by decide +kernel
  refine ⟨step_idle hp, ?_⟩
  rintro (⟨rest, hr⟩ | ⟨w, hw, -⟩)
  · rw [hp] at hr; cases hr
  · rw [commandOf, hp] at hw; cases hw

/-- For RegrdReadsExactlyOneSlot and RegwrWritesExactlyOneSlot: slot 10 is refused, slots 0 and 9 are not, for
either policy. -/
theorem witness_RegrdReadsExactlyOneSlot : 10 ≤ (loaded [10]).a[0].toNat ∧
    (loaded [9]).a[0].toNat = Slot.addr.number ∧ (loaded [0]).a[0].toNat = Slot.hoff.number ∧
    (1 : BitVec 4).toNat < State.reset.params.nlayers ∧
    (1 : BitVec 4).toNat < { defaultParams with collab := .oracle }.nlayers := by decide +kernel

/-- The answers of both policies, to GEOGET under both generations and to REGRD. -/
theorem witness_ReadsReturnThePolicysAnswers :
    Answers { configured .dynamicAddressing [] with hw := [(2, 0), (3, 0), (4, 0), (5, 0xFFFFFFFF)] } 0
      ((⟨0, 0, 0, 0xFFFFFFFF, 0, 0⟩ : GeometryReads).reads (configured .dynamicAddressing [])) ∧
    Answers { configured .offsetRegisters [] with
        params := { defaultParams with collab := .oracle }, answers := [1, 2, 3, 4, 5, 6, 7] } 0
      ((⟨1, 2, 3, 4, 5, 6⟩ : GeometryReads).reads (configured .offsetRegisters [])) ∧
    Answers { loaded [9] with hw := [(9, 7)] } 0 [(.addr, 7)] ∧
    Answers { loaded [9] with params := { defaultParams with collab := .oracle }, answers := [8] } 0 [(.addr, 8)] :=
  ⟨.inl ⟨rfl, by decide +kernel⟩, .inr ⟨rfl, [7], rfl⟩, .inl ⟨rfl, by decide⟩, .inr ⟨rfl, [], rfl⟩⟩

/-- A REGWR under either policy, a GEOSET, and a word of another layer. -/
theorem witness_RegWritesLandInTheirOwnSlots :
    (∃ t, exec (.regwr 1) (loaded [0, 7]) = .next t ∧ t.status = 0 ∧ (loaded [0, 7]).params.collab = .shadow) ∧
    (∃ t, exec (.regwr 1) { loaded [0, 7] with params := { defaultParams with collab := .oracle } } = .next t ∧
      t.status = 0) ∧
    (∃ t, exec (.geoset 0) (configured .dynamicAddressing [0, 0, 4, 4]) = .next t ∧ t.status = 0) ∧
    (loaded [0, 7]).a[0].toNat = Slot.hoff.number ∧ slotKey 0 .hoff ≠ slotKey 1 .hoff :=
  ⟨⟨_, exec_after _ _, by decide +kernel, rfl⟩, ⟨_, exec_after _ _, by decide +kernel⟩,
    ⟨_, exec_after _ _, by decide +kernel⟩, by decide +kernel, by decide⟩

/-- A GEOSET writes HSIZE before VSIZE, HPOS and VPOS; a REGWR of another slot follows; then slot 4 is read. -/
theorem witness_ShadowReadReturnsTheLastWrite :
    ∃ s t u : State, s.params.collab = .shadow ∧ step s = .next t ∧
      t.events = s.events ++ [.regWrite 0 .hoff 0, .regWrite 0 .voff 0] ++ .regWrite 0 .hsize 3 ::
        [.regWrite 0 .vsize 3, .regWrite 0 .hpos 1919, .regWrite 0 .vpos 1079] ∧
      Relation.ReflTransGen (LeavesSlot 0 .hsize) t u ∧ u.a[0].toNat = Slot.hsize.number := by
  refine ⟨{ configured .offsetRegisters [0, 0, 4, 4] with pending := [issue 0x30000000, wr 0 4] }, _, _, rfl,
    (by rw [step_command rfl]; exact exec_after (.geoset 0) _), by decide +kernel,
    .single ⟨step_write (offset := 0x020) (v := 4) (rest := []) (by decide +kernel) (by decide) (by decide),
      [], by decide +kernel, by simp⟩, by decide +kernel⟩

/-- For HostWritesStoreOnlyOperandsAndEntries and HostReadsReturnCurrentValues: the last offset of each range of
the map, and accesses there. -/
theorem witness_host_offsets : (0x020 + 4 * (7 : Fin 8).val = 0x03C) ∧ (0x040 + 4 * (7 : Fin 8).val = 0x05C) ∧
    (0x400 + 4 * (255 : Fin 256).val = 0x7FC) ∧ (0x800 + 4 * (255 : Fin 256).val = 0xBFC) ∧
    (hosted [.read 32 0xBFC]).pending = .read 32 0xBFC :: [] := by decide

/-- For HostWritesStoreOnlyOperandsAndEntries and ReservedOffsetsReadAnythingAndIgnoreWrites: a plain write and the
write half of a `MOV` at every offset, and a step of the latter that stores the word last read. -/
theorem witness_HostWrites (offset : Nat) :
    HostWrites (hosted [.write 32 offset 5]) offset 5 [] ∧
    HostWrites { hosted [.writeBack 32 offset] with readData := 5 } offset 5 [] ∧
    (∀ t, step { hosted [.writeBack 32 0x03C] with readData := 5 } = .next t → t.a[7] = 5) :=
  ⟨.inl rfl, .inr ⟨rfl, rfl⟩, fun t h => by
    rw [step_writeBack rfl (by decide) (by decide)] at h
    cases next_inj h
    decide +kernel⟩

theorem witness_ConfigShowsTheImmutableParameters : paramsWf defaultParams = true ∧
    (hosted [.read 32 8]).pending = [.read 32 0x008] ∧ (hosted [.write 32 8 1]).pending = [.write 32 0x008 1] ∧
    (∃ t, step (hosted []) = .next t) := ⟨by decide +kernel, rfl, rfl, _, rfl⟩

theorem witness_ReservedOffsetsReadAnythingAndIgnoreWrites :
    (0x00C % 4 = 0 ∧ 0x00C ≤ 0x01C) ∧ (0x3FC % 4 = 0 ∧ 0x060 ≤ 0x3FC) ∧ 0xC00 ≤ 0xC00 ∧
    ({ hosted [.read 32 0x060] with answers := [5] }).answers = 5 :: [] ∧
    (hosted [.read 32 0xC00]).pending = [.read 32 0xC00] := by decide

theorem witness_NarrowOrMisalignedAccessIsRefused : (hosted [.write 16 0x020 1]).pending = [.write 16 0x020 1] ∧
    (16 ≠ 32) ∧ (hosted [.read 32 0x022]).pending = [.read 32 0x022] ∧ 0x022 % 4 ≠ 0 ∧
    (hosted [.writeBack 8 0x021]).pending = [.writeBack 8 0x021] := by decide

theorem witness_HostInsideTheContractNeverStops : HostInContract (hosted (setAlpha 0 6 512 ++ [.reset, rd 0xBFC])) := by
  intro act h
  simp only [hosted, setAlpha, mov, wr, rd, cmd, issue, List.cons_append, List.nil_append, List.mem_cons,
    List.not_mem_nil, or_false] at h
  rcases h with rfl | rfl | rfl | rfl | rfl | rfl | rfl | rfl | rfl <;> simp only [InContract] <;> decide

theorem witness_ResetEventSparesTheDisplayController :
    (hosted [.reset]).pending = .reset :: [] ∧ ∃ t, step (hosted [.reset]) = .next t := ⟨rfl, _, rfl⟩

/-- The invariant holds of a state with a configured layer and a written slot, and a step runs there. -/
theorem witness_EveryStepKeepsTheInvariant :
    Inv { configured .offsetRegisters [0, 0, 4, 4] with
      hw := [(0, 1)], events := [.regWrite 0 .hoff 1], pending := [issue 0x30000000] } := by
  refine ⟨by decide +kernel, by unfold StatusLegal; decide +kernel, ?_, ⟨by decide +kernel, ?_⟩, ?_⟩
  · intro l hl
    have h0 : l = 0 := by revert hl; revert l; decide +kernel
    subst h0
    unfold SizesLegal GeometryInside
    decide +kernel
  · intro e he
    simp only [List.mem_cons, List.not_mem_nil, or_false] at he
    subst he
    decide +kernel
  · intro e he
    simp only [List.mem_cons, List.not_mem_nil, or_false] at he
    subst he
    simp only [eventLayer]
    decide +kernel

/-- For EveryStepKeepsTheInvariant, HistoryGrowsByOneLayerAtATime and ConfigShowsTheImmutableParameters: a step
with a next state. -/
theorem witness_step : ∃ t, step (hosted [issue 0x39000000]) = .next t :=
  ⟨after (.regwr 0) { State.reset with cmd := 0x39000000 }, by rw [← exec_after]; rfl⟩

/-- SETALPHA on a format with a layer alpha, on one without and on one that does not exist. -/
theorem witness_SetAlphaWritesTheRawAlphaOrStops :
    (hosted (setAlpha 1 6 512)).pending = setAlpha 1 6 512 ++ [] ∧
    State.reset.params.catalog[(6 : BitVec 5).toNat].tm = .layer ∧
    (∀ F ∈ State.reset.params.catalog[(12 : BitVec 5).toNat]?, F.tm ≠ .layer) ∧
    (∀ F ∈ State.reset.params.catalog[(24 : BitVec 5).toNat]?, F.tm ≠ .layer) :=
  ⟨rfl, by decide +kernel, by decide +kernel, by decide +kernel⟩

/-- A written and an unwritten slot; `fmt` 6 has a layer alpha, 12 has none and 24 does not exist. -/
theorem witness_GetAlphaReturnsTheNormalisedAlpha :
    (∃ s : State, s.pending = getAlpha 0 6 ++ [] ∧ Answers s 0 [(.alpha, 31)]) ∧
    (hosted (getAlpha 1 12)).pending = getAlpha 1 12 ++ [] ∧
    (hosted (getAlpha 1 12)).hw.read (slotKey 1 .alpha) = none ∧
    State.reset.params.catalog[(6 : BitVec 5).toNat].tm = .layer ∧
    State.reset.params.catalog[(12 : BitVec 5).toNat].tm ≠ .layer ∧ 24 ≤ (24 : BitVec 5).toNat :=
  ⟨⟨{ hosted (getAlpha 0 6) with hw := [(6, 31)] }, rfl, .inl ⟨rfl, by decide⟩⟩, rfl, rfl, by decide +kernel,
    by decide +kernel, by decide⟩

/-- The sum 256 is the last to succeed and 257 the first to fail; `fmt` 24 does not exist. -/
theorem witness_SetClutPopulatesTheEntries : (hosted (setClut 1 254 [1, 2])).pending = setClut 1 254 [1, 2] ++ [] ∧
    (254 : Word).toNat + [(1 : Word), 2].length ≤ 256 ∧ (255 : Fin 256).val = (254 : Word).toNat + 1 ∧
    (255 : Word).toNat + [(1 : Word), 2].length > 256 ∧ 24 ≤ (24 : BitVec 5).toNat := by
  decide +kernel

/-- Row 6 does not convert, row 3 does. -/
theorem witness_TransparentColourSurvivesTheRoundTrip :
    (hosted (setTransp 0 6 1 2 3 4 ++ getTransp 0 6)).pending = setTransp 0 6 1 2 3 4 ++ getTransp 0 6 ++ [] ∧
    (hosted (setTransp 1 3 1 2 3 4 ++ getTransp 1 3)).pending = setTransp 1 3 1 2 3 4 ++ getTransp 1 3 ++ [] ∧
    State.reset.params.catalog[(6 : BitVec 5).toNat].conv = false ∧
    State.reset.params.catalog[(3 : BitVec 5).toNat].conv = true ∧ State.reset.params.collab = .shadow ∧
    paramsWf State.reset.params = true := by
  decide +kernel

end Sys2Proof.Tests
end

section
/-! SUPPORT. What an operation can do, said once for all thirteen: it raises an error, or it has its effect,
writes its results and completes. The frames and the invariant are read off this. -/

namespace Sys2Proof.Machine

open Sys2Proof.Safety Sys2Proof.Claims

/-! ### Several result registers -/

/-- Result registers written in list order. -/
def State.setResults (s : State) : List (Fin 8 × Word) → State
  | [] => s
  | (k, v) :: ws => (s.setResult k v).setResults ws

/-- Writing results changes only the result registers. -/
theorem State.setResults_state (s : State) (ws : List (Fin 8 × Word)) :
    s.setResults ws = { s with r := (s.setResults ws).r } := by
  induction ws generalizing s with
  | nil => rfl
  | cons w ws ih => exact ih (s.setResult w.1 w.2)

section
variable (s : State) (ws : List (Fin 8 × Word))

@[simp] theorem State.setResults_params : (s.setResults ws).params = s.params := by rw [setResults_state]
@[simp] theorem State.setResults_cmd : (s.setResults ws).cmd = s.cmd := by rw [setResults_state]
@[simp] theorem State.setResults_status : (s.setResults ws).status = s.status := by rw [setResults_state]
@[simp] theorem State.setResults_a : (s.setResults ws).a = s.a := by rw [setResults_state]
@[simp] theorem State.setResults_ebuf : (s.setResults ws).ebuf = s.ebuf := by rw [setResults_state]
@[simp] theorem State.setResults_cbuf : (s.setResults ws).cbuf = s.cbuf := by rw [setResults_state]
@[simp] theorem State.setResults_layers : (s.setResults ws).layers = s.layers := by rw [setResults_state]
@[simp] theorem State.setResults_hw : (s.setResults ws).hw = s.hw := by rw [setResults_state]
@[simp] theorem State.setResults_events : (s.setResults ws).events = s.events := by rw [setResults_state]
@[simp] theorem State.setResults_pending : (s.setResults ws).pending = s.pending := by rw [setResults_state]
@[simp] theorem State.setResults_readData : (s.setResults ws).readData = s.readData := by rw [setResults_state]
@[simp] theorem State.setResults_answers : (s.setResults ws).answers = s.answers := by rw [setResults_state]
@[simp] theorem State.setResults_freeCount : (s.setResults ws).freeCount = s.freeCount := by rw [setResults_state]

end

section
variable (s : State) (l : BitVec 4)

@[simp] theorem State.layer_complete : s.complete.layer l = s.layer l := rfl
@[simp] theorem State.layer_setResults (ws : List (Fin 8 × Word)) : (s.setResults ws).layer l = s.layer l :=
  State.layer_congr (s.setResults_layers ws) l
@[simp] theorem State.layer_regWrites (l' : BitVec 4) (ws : List (Slot × Word)) :
    (s.regWrites l' ws).layer l = s.layer l :=
  State.layer_congr (s.regWrites_layers l' ws) l

end

theorem State.setResult_r_other (s : State) {i k : Fin 8} (v : Word) (h : k ≠ i) :
    (s.setResult i v).r[k] = s.r[k] := by
  simp only [setResult_r, Fin.getElem_fin]
  exact Vector.getElem_set_ne _ _ fun e => h (Fin.ext e.symm)

/-- A result register that the list does not name keeps its value. -/
theorem State.setResults_r_other (s : State) {ws : List (Fin 8 × Word)} {k : Fin 8}
    (h : k ∉ ws.map Prod.fst) : (s.setResults ws).r[k] = s.r[k] := by
  induction ws generalizing s with
  | nil => rfl
  | cons w ws ih =>
    simp only [List.map_cons, List.mem_cons, not_or] at h
    exact (ih (s.setResult w.1 w.2) h.2).trans (s.setResult_r_other w.2 h.1)

/-! ### The effects of the operations -/

/-- The state after a successful operation but for its results and `STATUS`: what it did to the layer record,
the buffers and the collaborator, with the conditions of its success. -/
inductive Effect (s : State) : Instr → State → Prop
  | pure {i : Instr} (hi : IsPure i) : Effect s i s
  | lcfg {l : BitVec 4} {id : Fin 24} (hl : l.toNat < s.params.nlayers)
      (hs : checkSizes s.params (lowHalf (s.operand 4)) (highHalf (s.operand 4)) (lowHalf (s.operand 5))
        (highHalf (s.operand 5)) = .ok ()) :
      Effect s (.lcfg l) (s.setLayer l (configuredRecord id (lowHalf (s.operand 4)) (highHalf (s.operand 4))
        (lowHalf (s.operand 5)) (highHalf (s.operand 5)) (s.operand 6)))
  | clutenc {f : BitVec 5} (c : Vector Word 256) : Effect s (.clutenc f) (s.setClut c)
  | geoset {l : BitVec 4} {g : Geometry} (hl : l.toNat < s.params.nlayers) (hv : (s.layer l).valid = true)
      (hg : validate (s.layer l) s.params.catalog[(s.layer l).fmt] s.geometryOperands = .ok g) :
      Effect s (.geoset l) ((s.setLayer l { s.layer l with geo := g }).regWrites l
        (writeSequence s.params.gen (s.layer l) g
          (byteOffset (s.layer l) s.params.catalog[(s.layer l).fmt] g.xoff g.yoff)))
  | geoget {l : BitVec 4} (hl : l.toNat < s.params.nlayers) :
      Effect s (.geoget l) (readGeometry s l (s.layer l)).2
  | regrd {l : BitVec 4} (c : Slot) (hl : l.toNat < s.params.nlayers) :
      Effect s (.regrd l) (s.regRead l c).2
  | regwr {l : BitVec 4} {c : Slot} (hl : l.toNat < s.params.nlayers)
      (hc : (s.operand 0).toNat = c.number) : Effect s (.regwr l) (s.regWrite l c (s.operand 1))

/-- `t` is `s` after a success of `i`: its effect, then its results, then `STATUS` 0. -/
def SucceedsTo (i : Instr) (s t : State) : Prop :=
  ∃ u ws, Effect s i u ∧ ws.map Prod.fst = writtenResults i ∧ t = (u.setResults ws).complete

/-- A success of one check and the results computed from its answer. -/
theorem finish_check_succeeding {α : Type} {s t : State} {x : Except ErrorKind α} {g : α → State}
    (h : finish s (x >>= fun a => .ok (g a)) = .next t) (ht : t.status = 0) :
    ∃ a, x = .ok a ∧ t = (g a).complete := by
  obtain ⟨u, hu, rfl⟩ := finish_succeeding h ht
  obtain ⟨a, ha, hu⟩ := except_bind_ok hu
  cases hu
  exact ⟨a, ha, rfl⟩

/-- An operation that leaves `STATUS = 0` had its effect and wrote its results. -/
theorem exec_succeeding {i : Instr} {s t : State} (h : exec i s = .next t) (ht : t.status = 0) :
    SucceedsTo i s t := by
  cases i with
  | fmtres =>
    obtain ⟨id, -, rfl⟩ := execFmtres_success h ht
    exact ⟨s, [(0, _), (1, _), (2, _), (3, _), (4, _), (5, _), (6, _)], .pure trivial, rfl, rfl⟩
  | lcfg l =>
    obtain ⟨hl, id, -, hs, rfl⟩ := execLcfg_success h ht
    exact ⟨_, [(0, _), (1, _)], .lcfg hl hs, rfl, rfl⟩
  | rgb2yuv | yuv2rgb =>
    obtain rfl := next_inj h
    exact ⟨s, [(1, _), (2, _), (3, _)], .pure trivial, rfl, rfl⟩
  | alpha2hw f | hw2alpha f | pxenc f =>
    obtain ⟨F, -, rfl⟩ := finish_check_succeeding h ht
    exact ⟨s, [(0, _)], .pure trivial, rfl, rfl⟩
  | pxdec f =>
    obtain ⟨F, -, rfl⟩ := finish_check_succeeding h ht
    exact ⟨s, [(0, _), (1, _), (2, _), (3, _)], .pure trivial, rfl, rfl⟩
  | clutenc f =>
    obtain ⟨F, -, -, rfl⟩ := execClutenc_success h ht
    exact ⟨_, [], .clutenc _, rfl, rfl⟩
  | geoset l =>
    obtain ⟨g, hl, hv, hg, rfl⟩ := execGeoset_success h ht
    exact ⟨_, [(0, _), (1, _), (2, _), (3, _), (4, _), (5, _), (6, _)], .geoset hl hv hg, rfl, rfl⟩
  | geoget l =>
    obtain ⟨hl, -, rfl⟩ := execGeoget_success h ht
    exact ⟨_, [(0, _), (1, _), (2, _), (3, _), (4, _), (5, _)], .geoget hl, rfl, rfl⟩
  | regrd l =>
    obtain ⟨c, hl, -, rfl⟩ := execRegrd_success h ht
    exact ⟨_, [(0, _)], .regrd c hl, rfl, rfl⟩
  | regwr l =>
    obtain ⟨c, hl, hc, rfl⟩ := execRegwr_success h ht
    exact ⟨_, [], .regwr hl hc, rfl, rfl⟩

/-- The two ways an operation ends (60_exceptions R173). -/
theorem exec_cases {i : Instr} {s t : State} (h : exec i s = .next t) :
    (∃ e, t = s.raise e) ∨ SucceedsTo i s t := by
  by_cases ht : t.status = 0
  · exact .inr (exec_succeeding h ht)
  · exact .inl (exec_failing h ht)

/-! ### What every effect leaves alone -/

section
variable {s u : State} {i : Instr}

theorem Effect.params (h : Effect s i u) : u.params = s.params := by cases h <;> simp
theorem Effect.cmd (h : Effect s i u) : u.cmd = s.cmd := by cases h <;> simp
theorem Effect.a (h : Effect s i u) : u.a = s.a := by cases h <;> simp
theorem Effect.r (h : Effect s i u) : u.r = s.r := by cases h <;> simp
theorem Effect.ebuf (h : Effect s i u) : u.ebuf = s.ebuf := by cases h <;> simp
theorem Effect.pending (h : Effect s i u) : u.pending = s.pending := by cases h <;> simp
theorem Effect.readData (h : Effect s i u) : u.readData = s.readData := by cases h <;> simp

end

/-! ### The history -/

/-- From `s` to `u` the history grew by at most `n` accesses, all to layer `l` (20_memory R46, R54). -/
def Accesses (l : BitVec 4) (n : Nat) (s u : State) : Prop :=
  ∃ new, u.events = s.events ++ new ∧ new.length ≤ n ∧ ∀ e ∈ new, eventLayer e = l

theorem Accesses.history_extends {l : BitVec 4} {n : Nat} {s u : State} (h : Accesses l n s u) :
    s.events <+: u.events := by
  obtain ⟨new, he, -⟩ := h
  exact ⟨new, he.symm⟩

theorem Accesses.mono {l : BitVec 4} {m n : Nat} {s u : State} (h : Accesses l m s u) (hmn : m ≤ n) :
    Accesses l n s u := by
  obtain ⟨new, he, hn, hl⟩ := h
  exact ⟨new, he, hn.trans hmn, hl⟩

theorem Accesses.trans {l : BitVec 4} {m n : Nat} {s u v : State} (h1 : Accesses l m s u)
    (h2 : Accesses l n u v) : Accesses l (m + n) s v := by
  obtain ⟨xs, hx, hxn, hxl⟩ := h1
  obtain ⟨ys, hy, hyn, hyl⟩ := h2
  refine ⟨xs ++ ys, by rw [hy, hx, List.append_assoc], by rw [List.length_append]; omega, fun e he => ?_⟩
  exact (List.mem_append.1 he).elim (hxl e) (hyl e)

theorem accesses_regRead (s : State) (l : BitVec 4) (c : Slot) : Accesses l 1 s (s.regRead l c).2 :=
  ⟨_, s.regRead_events l c, le_rfl, by simp [eventLayer]⟩

theorem accesses_regWrite (s : State) (l : BitVec 4) (c : Slot) (v : Word) :
    Accesses l 1 s (s.regWrite l c v) :=
  ⟨_, s.regWrite_events l c v, le_rfl, by simp [eventLayer]⟩

theorem accesses_regWrites (s : State) (l : BitVec 4) (ws : List (Slot × Word)) :
    Accesses l ws.length s (s.regWrites l ws) :=
  ⟨_, s.regWrites_events l ws, by simp, fun e he => by obtain ⟨w, -, rfl⟩ := List.mem_map.1 he; rfl⟩

theorem accesses_readGeometry (s : State) (l : BitVec 4) (L : LayerRecord) :
    Accesses l 6 s (readGeometry s l L).2 := by
  have h4 : Accesses l 4 s
      ((((s.regRead l .hpos).2.regRead l .vpos).2.regRead l .hsize).2.regRead l .vsize).2 :=
    (((accesses_regRead ..).trans (accesses_regRead ..)).trans (accesses_regRead ..)).trans
      (accesses_regRead ..)
  unfold readGeometry
  cases s.params.gen with
  | offsetRegisters => exact (h4.trans (accesses_regRead ..)).trans (accesses_regRead ..)
  | dynamicAddressing => exact h4.mono (by decide)

theorem length_writeSequence_le (gen : Gen) (L : LayerRecord) (g : Geometry) (bo : Word) :
    (writeSequence gen L g bo).length ≤ 6 := by
  cases gen <;> simp [writeSequence, offsetSequence, addressSequence]

/-- An effect leaves the history or accesses one existing layer at most six times. -/
theorem Effect.events {i : Instr} {s u : State} (h : Effect s i u) :
    u.events = s.events ∨ ∃ l : BitVec 4, l.toNat < s.params.nlayers ∧ Accesses l 6 s u := by
  cases h with
  | pure hi => exact .inl rfl
  | lcfg hl hs => exact .inl rfl
  | clutenc c => exact .inl rfl
  | geoset hl hv hg => exact .inr ⟨_, hl, (accesses_regWrites ..).mono (length_writeSequence_le ..)⟩
  | geoget hl => exact .inr ⟨_, hl, accesses_readGeometry ..⟩
  | regrd c hl => exact .inr ⟨_, hl, (accesses_regRead ..).mono (by decide)⟩
  | regwr hl hc => exact .inr ⟨_, hl, (accesses_regWrite ..).mono (by decide)⟩

/-- So does every operation. -/
theorem exec_events {i : Instr} {s t : State} (h : exec i s = .next t) :
    t.events = s.events ∨ ∃ l : BitVec 4, l.toNat < s.params.nlayers ∧ Accesses l 6 s t := by
  rcases exec_cases h with ⟨e, rfl⟩ | ⟨u, ws, hu, -, rfl⟩
  · exact .inl rfl
  · simpa [Accesses] using hu.events

/-! ### What every operation leaves alone -/

theorem exec_params {i : Instr} {s t : State} (h : exec i s = .next t) : t.params = s.params := by
  rcases exec_cases h with ⟨e, rfl⟩ | ⟨u, ws, hu, -, rfl⟩
  · rfl
  · simpa using hu.params

end Sys2Proof.Machine

namespace Sys2Proof.Proofs

open Sys2Proof.Machine Sys2Proof.Claims

/-- Settles O13: neither an error nor the effect, the results and the completion of an operation reach the
host's side. -/
theorem operationsNeverWriteTheHostsSide : Obligations.OperationsNeverWriteTheHostsSide := by
  unfold Obligations.OperationsNeverWriteTheHostsSide
  intro i s t h
  have hev : s.events <+: t.events := by
    rcases exec_events h with he | ⟨l, -, hl⟩
    · rw [he]
    · exact hl.history_extends
  rcases exec_cases h with ⟨e, rfl⟩ | ⟨u, ws, hu, -, rfl⟩
  · exact ⟨rfl, rfl, rfl, rfl, rfl, rfl, hev⟩
  · exact ⟨by simp [hu.a], by simp [hu.ebuf], by simp [hu.cmd], by simp [hu.params], by simp [hu.pending],
      by simp [hu.readData], hev⟩

/-- Settles O14: an effect keeps every result register, and the results written are the named ones. -/
theorem unnamedResultsKeepTheirValue : Obligations.UnnamedResultsKeepTheirValue := by
  unfold Obligations.UnnamedResultsKeepTheirValue
  intro i s t h k hk
  rcases exec_cases h with ⟨e, rfl⟩ | ⟨u, ws, hu, hws, rfl⟩
  · rfl
  · calc (u.setResults ws).r[k] = u.r[k] := u.setResults_r_other (hws ▸ hk)
      _ = s.r[k] := by rw [hu.r]

end Sys2Proof.Proofs
end

section
/-! SUPPORT. The frames of the six operations that do more than write results. -/

namespace Sys2Proof.Proofs

open Sys2Proof.Machine Sys2Proof.Claims

/-- LCFG keeps every record but its own, and all else but results and `STATUS` (40_catalog R86). -/
theorem lcfg_frame {s t : State} {l : BitVec 4} (h : exec (.lcfg l) s = .next t) :
    t = { s with r := t.r, status := t.status, layers := t.layers } ∧
    ∀ l' : BitVec 4, l' ≠ l → t.layer l' = s.layer l' := by
  rcases exec_cases h with ⟨e, rfl⟩ | ⟨u, ws, hu, -, rfl⟩
  · exact ⟨rfl, fun _ _ => rfl⟩
  · cases hu with
    | pure hi => exact hi.elim
    | lcfg hl hs =>
      exact ⟨by ext1 <;> simp, fun l' hl' => by simp [State.layer_setLayer_other, hl']⟩

/-- CLUTENC changes `CBUF` and `STATUS` only (43_pixel_codec R124). -/
theorem clutenc_frame {s t : State} {f : BitVec 5} (h : exec (.clutenc f) s = .next t) :
    t = { s with cbuf := t.cbuf, status := t.status } := by
  rcases exec_cases h with ⟨e, rfl⟩ | ⟨u, ws, hu, hws, rfl⟩
  · rfl
  · obtain rfl : ws = [] := List.map_eq_nil_iff.1 hws
    cases hu with
    | pure hi => exact hi.elim
    | clutenc c => rfl

/-- The slots that GEOSET writes are those of the spec's sequence (44_geometry R144, R145). -/
theorem writeSequence_slots (s : State) (l : BitVec 4) (g : Geometry) (bo : Word) :
    (writeSequence s.params.gen (s.layer l) g bo).map Prod.fst = (geometryWrites s l).map Prod.fst := by
  unfold geometryWrites
  cases s.params.gen <;> rfl

/-- GEOSET keeps every record but its own and every shadow word but those it writes (44_geometry R141). -/
theorem geoset_frame {s t : State} {l : BitVec 4} (h : exec (.geoset l) s = .next t) :
    t = { s with r := t.r, status := t.status, layers := t.layers, hw := t.hw, events := t.events } ∧
    (∀ l' : BitVec 4, l' ≠ l → t.layer l' = s.layer l') ∧
    ∀ k, (∀ w ∈ geometryWrites s l, k ≠ slotKey l w.1) → t.hw.read k = s.hw.read k := by
  rcases exec_cases h with ⟨e, rfl⟩ | ⟨u, ws, hu, -, rfl⟩
  · exact ⟨rfl, fun _ _ => rfl, fun _ _ => rfl⟩
  · cases hu with
    | pure hi => exact hi.elim
    | @geoset _ g hl hv hg =>
      refine ⟨by ext1 <;> simp, fun l' hl' => by simp [State.layer_setLayer_other, hl'], fun k hk => ?_⟩
      rw [State.complete_hw, State.setResults_hw, State.regWrites_read_other, State.setLayer_hw]
      intro w hw
      have hm := List.mem_map_of_mem (f := Prod.fst) hw
      rw [writeSequence_slots] at hm
      obtain ⟨w', hw', he⟩ := List.mem_map.1 hm
      exact he ▸ hk w' hw'

/-- A state reached by reads, with results and `STATUS` written (44_geometry R148, 45_regaccess R161). -/
theorem frame_of_onlyReads {s u : State} (h : OnlyReads s u) (ws : List (Fin 8 × Word)) :
    (u.setResults ws).complete =
      { s with
        r := (u.setResults ws).r
        status := statusOk
        events := u.events
        answers := u.answers
        freeCount := u.freeCount } := by
  unfold OnlyReads at h
  rw [h]
  ext1 <;> simp

/-- GEOGET changes results, `STATUS`, the history and the source of open values (44_geometry R148). -/
theorem geoget_frame {s t : State} {l : BitVec 4} (h : exec (.geoget l) s = .next t) :
    t = { s with r := t.r, status := t.status, events := t.events, answers := t.answers,
                 freeCount := t.freeCount } := by
  rcases exec_cases h with ⟨e, rfl⟩ | ⟨u, ws, hu, -, rfl⟩
  · rfl
  · cases hu with
    | pure hi => exact hi.elim
    | geoget hl => simpa using frame_of_onlyReads (onlyReads_readGeometry s l (s.layer l)) ws

/-- REGRD changes the same (45_regaccess R161). -/
theorem regrd_frame {s t : State} {l : BitVec 4} (h : exec (.regrd l) s = .next t) :
    t = { s with r := t.r, status := t.status, events := t.events, answers := t.answers,
                 freeCount := t.freeCount } := by
  rcases exec_cases h with ⟨e, rfl⟩ | ⟨u, ws, hu, -, rfl⟩
  · rfl
  · cases hu with
    | pure hi => exact hi.elim
    | regrd c hl => simpa using frame_of_onlyReads (onlyReads_regRead s l c) ws

/-- REGWR changes `STATUS`, the history and the word of its slot (45_regaccess R162). -/
theorem regwr_frame {s t : State} {l : BitVec 4} (h : exec (.regwr l) s = .next t) :
    t = { s with status := t.status, hw := t.hw, events := t.events } ∧
    ∀ k, k ≠ Config.layerNregs * l.toNat + s.a[0].toNat → t.hw.read k = s.hw.read k := by
  rcases exec_cases h with ⟨e, rfl⟩ | ⟨u, ws, hu, hws, rfl⟩
  · exact ⟨rfl, fun _ _ => rfl⟩
  · obtain rfl : ws = [] := List.map_eq_nil_iff.1 hws
    cases hu with
    | pure hi => exact hi.elim
    | @regwr _ c hl hc =>
      refine ⟨rfl, fun k hk => s.regWrite_read_other l c _ ?_⟩
      rwa [slotKey, ← hc]

/-- Settles O17, from the frame of each of the six. -/
theorem framesOfTheOtherOperations : Obligations.FramesOfTheOtherOperations := by
  unfold Obligations.FramesOfTheOtherOperations
  exact ⟨fun _ _ _ => lcfg_frame, fun _ _ _ => clutenc_frame, fun _ _ _ => geoset_frame,
    fun _ _ _ => geoget_frame, fun _ _ _ => regrd_frame, fun _ _ _ => regwr_frame⟩

end Sys2Proof.Proofs
end

section
/-! SUPPORT. The invariant, kept by every step: by each effect, hence by each operation, hence by each host
action. -/

namespace Sys2Proof.Machine

open Sys2Proof.Safety

/-! ### What one step can do -/

/-- What a host action may change when it is neither a command nor a reset: an operand, an entry and the host's
own fields (20_memory R41). -/
def OnlyHost (s t : State) : Prop :=
  t = { s with
    a := t.a
    ebuf := t.ebuf
    pending := t.pending
    readData := t.readData
    answers := t.answers
    freeCount := t.freeCount }

theorem hostWrite_cases {r : HostReg} {v : Word} {s t : State} (h : hostWrite r v s = .next t) :
    runCommand v s = .next t ∨ OnlyHost s t := by
  cases r with
  | cmd => exact .inl h
  | _ => exact .inr (by obtain rfl := next_inj h; rfl)

theorem onlyHost_hostRead (r : HostReg) (s : State) (v : Word) :
    OnlyHost s ((hostRead r s).2.setReadData v) := by
  cases r with
  | reserved =>
    unfold OnlyHost hostRead
    rw [State.draw_state]
    rfl
  | _ => rfl

/-- The kinds of step: a command, a reset, or an access that reaches no more than an operand or an entry. -/
theorem step_cases {s t : State} (h : step s = .next t) :
    (∃ rest w, runCommand w (s.setPending rest) = .next t) ∨
    (∃ rest, t = (s.setPending rest).resetEvent) ∨ OnlyHost s t := by
  unfold step stepHost at h
  split at h
  · exact .inr (.inr (by obtain rfl := next_inj h; rfl))
  · next act rest _ =>
    cases act with
    | write width offset v =>
      simp only [serve] at h
      split at h
      · cases h
      · exact (hostWrite_cases h).imp (fun h => ⟨rest, v, h⟩) fun h => .inr h
    | read width offset =>
      simp only [serve] at h
      split at h
      · cases h
      · obtain rfl := next_inj h
        exact .inr (.inr (onlyHost_hostRead ..))
    | writeBack width offset =>
      simp only [serve] at h
      split at h
      · cases h
      · exact (hostWrite_cases h).imp (fun h => ⟨rest, _, h⟩) fun h => .inr h
    | stopOnError count => exact .inr (.inr (by obtain rfl := next_inj h; rfl))
    | reset => exact .inr (.inl ⟨rest, (next_inj h).symm⟩)

/-- The two ways a command word runs, as a case split on the next state (30_encoding R62, R63). -/
theorem runCommand_next {w : Word} {s t : State} (h : runCommand w s = .next t) :
    (∃ i, decode s.params.nlayers w = .ok i ∧ exec i (s.setCmd w) = .next t) ∨
      t = (s.setCmd w).raise .illegalCommand := by
  rcases runCommand_cases w s with ⟨i, hi, hr⟩ | ⟨-, hr⟩
  · exact .inl ⟨i, hi, hr ▸ h⟩
  · exact .inr (next_inj (h.symm.trans hr))

theorem runCommand_params {w : Word} {s t : State} (h : runCommand w s = .next t) : t.params = s.params := by
  rcases runCommand_next h with ⟨i, -, hi⟩ | rfl
  · exact (exec_params hi :)
  · rfl

/-- No step changes the parameters (10_state R15). -/
theorem step_params {s t : State} (h : step s = .next t) : t.params = s.params := by
  rcases step_cases h with ⟨rest, w, hw⟩ | ⟨rest, rfl⟩ | ht
  · exact (runCommand_params hw :)
  · rfl
  · rw [ht]

end Sys2Proof.Machine

namespace Sys2Proof.Safety

open Sys2Proof.Machine

/-! ### The parts of the invariant under the operations of the state -/

/-- A legal record put at an existing layer keeps the records legal. -/
theorem LayersLegal.setLayer {s : State} (h : LayersLegal s) {l : BitVec 4} {L : LayerRecord}
    (hl : l.toNat < s.params.nlayers) (hs : SizesLegal s.params L) (hg : GeometryInside L) :
    LayersLegal (s.setLayer l L) := by
  intro l' hv
  by_cases e : l' = l
  · subst e
    rw [State.layer_setLayer_same]
    exact ⟨hl, hs, hg⟩
  · rw [State.layer_setLayer_other s L e] at hv ⊢
    exact h l' hv

/-- Without a configured layer the records are legal. -/
theorem layersLegal_of_valid_false {s : State} (h : ∀ l : BitVec 4, (s.layer l).valid = false) :
    LayersLegal s := by
  intro l hv
  rw [h l] at hv
  cases hv

/-- Writes to an existing layer keep the shadow array legal (20_memory R46, R47). -/
theorem ShadowLegal.regWrites {s : State} (h : ShadowLegal s) {l : BitVec 4} (hl : l.toNat < s.params.nlayers)
    (ws : List (Slot × Word)) : ShadowLegal (s.regWrites l ws) := by
  obtain ⟨hwf, hkeys⟩ := h
  refine ⟨State.regWrites_hw_wf l ws hwf, fun e he => ?_⟩
  rw [State.regWrites_params]
  rcases State.mem_hw_regWrites he with he | ⟨c, hc⟩
  · exact hkeys e he
  · exact hc ▸ slotKey_lt c hl

/-- Accesses to an existing layer keep the history legal (20_memory R46). -/
theorem EventsLegal.accesses {s u : State} (h : EventsLegal s) (hp : u.params = s.params) {l : BitVec 4} {n : Nat}
    (hl : l.toNat < s.params.nlayers) (ha : Accesses l n s u) : EventsLegal u := by
  obtain ⟨new, hnew, -, hlayer⟩ := ha
  intro e he
  rw [hp]
  rw [hnew] at he
  rcases List.mem_append.1 he with he | he
  · exact h e he
  · exact hlayer e he ▸ hl

/-- The invariant reads the parameters, `STATUS`, the records, the shadow array and the history only. -/
theorem Inv.of_frame {s t : State} (h : Inv s) (hp : t.params = s.params) (hst : t.status.toNat ≤ 8)
    (hl : t.layers = s.layers) (hh : t.hw = s.hw) (he : t.events = s.events) : Inv t where
  params := hp ▸ h.params
  status := hst
  layers := by simpa only [LayersLegal, State.layer_congr hl, hp] using h.layers
  shadow := by simpa only [ShadowLegal, hh, hp] using h.shadow
  events := by simpa only [EventsLegal, he, hp] using h.events

/-- Reads keep the invariant when they were of existing layers. -/
theorem Inv.of_onlyReads {s u : State} (h : Inv s) (hu : OnlyReads s u) (he : EventsLegal u) : Inv u where
  params := by rw [hu]; exact h.params
  status := by rw [hu]; exact h.status
  layers := by rw [hu]; exact h.layers
  shadow := by rw [hu]; exact h.shadow
  events := he

/-! ### The records that LCFG and GEOSET leave -/

/-- LCFG's checks make the record's sizes legal (40_catalog R86). -/
theorem sizesLegal_of_checkSizes {p : Params} {id : Fin 24} {visw vish virtw virth : BitVec 16} {fb : Word}
    (h : checkSizes p visw vish virtw virth = .ok ()) :
    SizesLegal p (configuredRecord id visw vish virtw virth fb) := by
  rw [checkSizes_eq] at h
  split at h
  · cases h
  · simp only [SizesLegal, configuredRecord]
    omega

/-- A new layer shows its whole visible area (40_catalog R86). -/
theorem geometryInside_configuredRecord (id : Fin 24) (visw vish virtw virth : BitVec 16) (fb : Word) :
    GeometryInside (configuredRecord id visw vish virtw virth fb) := by
  simp only [GeometryInside, configuredRecord, zeroExtend32_toNat]
  simp

/-- A geometry that `validate` answers lies inside the visible area (44_geometry R140). -/
theorem geometryInside_of_validate {L : LayerRecord} {F : PixelFormat} {g g' : Geometry}
    (h : validate L F g = .ok g') : GeometryInside { L with geo := g' } := by
  rcases validate_cases L F g with ⟨-, hv⟩ | ⟨-, -, hv⟩ | ⟨hpos, -, hv⟩
  · rw [hv] at h; cases h
  · rw [hv] at h; cases h
  · rw [hv] at h
    cases h
    have hw := evenWidth_le F.is422 (clampSize L.visw g.x g.w)
    rw [clampSize_toNat (by omega)] at hw
    have hh := clampSize_toNat (V := L.vish) (pos := g.y) (size := g.h) (by omega)
    simp only [GeometryInside]
    omega

/-! ### The invariant along a step -/

/-- Every effect keeps the invariant. -/
theorem Inv.effect {i : Instr} {s u : State} (h : Inv s) (hu : Effect s i u) : Inv u := by
  have hev : EventsLegal u := by
    rcases hu.events with he | ⟨l, hl, ha⟩
    · simpa only [EventsLegal, he, hu.params] using h.events
    · exact h.events.accesses hu.params hl ha
  cases hu with
  | pure hi => exact h
  | lcfg hl hs =>
    exact ⟨h.params, h.status,
      h.layers.setLayer hl (sizesLegal_of_checkSizes hs) (geometryInside_configuredRecord ..), h.shadow, hev⟩
  | clutenc c => exact h.of_frame rfl h.status rfl rfl rfl
  | @geoset l g hl hv hg =>
    obtain ⟨-, hsizes, -⟩ := h.layers l hv
    have hset : LayersLegal (s.setLayer l { s.layer l with geo := g }) :=
      h.layers.setLayer hl hsizes (geometryInside_of_validate hg)
    exact ⟨by simpa using h.params, by simpa [StatusLegal] using h.status, by simpa [LayersLegal] using hset,
      ShadowLegal.regWrites (s := s.setLayer l _) h.shadow hl _, hev⟩
  | geoget hl => exact h.of_onlyReads (onlyReads_readGeometry ..) hev
  | regrd c hl => exact h.of_onlyReads (onlyReads_regRead ..) hev
  | @regwr l c hl hc =>
    exact ⟨h.params, h.status, h.layers, h.shadow.regWrites hl [(c, s.operand 1)], hev⟩

/-- Every operation keeps the invariant. -/
theorem Inv.exec {i : Instr} {s t : State} (h : Inv s) (ht : exec i s = .next t) : Inv t := by
  rcases exec_cases ht with ⟨e, rfl⟩ | ⟨u, ws, hu, -, rfl⟩
  · exact h.of_frame rfl (statusOf_le e) rfl rfl rfl
  · exact (h.effect hu).of_frame (by simp) (by simp [statusOk]) (by simp) (by simp) (by simp)

/-- Every command word keeps the invariant, legal or not. -/
theorem Inv.runCommand {w : Word} {s t : State} (h : Inv s) (ht : runCommand w s = .next t) : Inv t := by
  rcases runCommand_next ht with ⟨i, -, hi⟩ | rfl
  · exact Inv.exec (h.of_frame (t := s.setCmd w) rfl h.status rfl rfl rfl) hi
  · exact h.of_frame rfl (statusOf_le _) rfl rfl rfl

/-- A reset leaves no layer configured. -/
theorem valid_resetBlock (s : State) (d : ResetDraw) (l : BitVec 4) :
    ((s.resetBlock d).layer l).valid = false := by
  simp [State.layer, State.resetBlock]

theorem Inv.resetEvent {s : State} (h : Inv s) : Inv s.resetEvent :=
  ⟨h.params, by simp [StatusLegal, State.resetEvent, State.resetBlock],
    layersLegal_of_valid_false (valid_resetBlock s _), h.shadow, h.events⟩

theorem Inv.step {s t : State} (h : Inv s) (ht : step s = .next t) : Inv t := by
  rcases step_cases ht with ⟨rest, w, hw⟩ | ⟨rest, rfl⟩ | hhost
  · exact Inv.runCommand (h.of_frame (t := s.setPending rest) rfl h.status rfl rfl rfl) hw
  · exact Inv.resetEvent (h.of_frame (t := s.setPending rest) rfl h.status rfl rfl rfl)
  · rw [hhost]
    exact h.of_frame rfl h.status rfl rfl rfl

/-- The invariant holds at power-on: nothing is configured, recorded or stored (10_state R24). -/
theorem inv_powerOn {p : Params} (hp : paramsWf p = true) (d : ResetDraw) : Inv (State.powerOn p d) where
  params := hp
  status := by simp [StatusLegal, State.powerOn]
  layers := layersLegal_of_valid_false fun l => by simp [State.layer, State.powerOn]
  shadow := ⟨Memory.wf_nil, by simp [State.powerOn]⟩
  events := by simp [EventsLegal, State.powerOn]

theorem paramsWf_defaultParams : paramsWf defaultParams = true := by decide +kernel

end Sys2Proof.Safety

namespace Sys2Proof.Proofs

open Sys2Proof.Machine Sys2Proof.Safety

/-- Settles O49, by the kinds of step: a command, a reset or a plain host access. -/
theorem everyStepKeepsTheInvariant : Obligations.EveryStepKeepsTheInvariant := by
  unfold Obligations.EveryStepKeepsTheInvariant
  exact fun s t h ht => h.step ht

/-- Settles O48. -/
theorem invariantHoldsAtReset : Obligations.InvariantHoldsAtReset := by
  unfold Obligations.InvariantHoldsAtReset
  exact ⟨fun p d hp => inv_powerOn hp d, inv_powerOn paramsWf_defaultParams ResetDraw.zero⟩

end Sys2Proof.Proofs
end

section
/-! SUPPORT. The registers CMD, CONFIG and the reset: what a host access or a reset makes of them. -/

namespace Sys2Proof.Machine

open Sys2Proof.Claims

/-- A decodable word runs its operation with the word in `CMD` (10_state R13). -/
theorem runCommand_ok {w : Word} {s : State} {i : Instr} (h : decode s.params.nlayers w = .ok i) :
    runCommand w s = exec i (s.setCmd w) := by
  simp only [runCommand, h]

/-- Any other word only raises `IllegalCommand` (30_encoding R63). -/
theorem runCommand_error {w : Word} {s : State} {e : DecodeError} (h : decode s.params.nlayers w = .error e) :
    runCommand w s = .next ((s.setCmd w).raise .illegalCommand) := by
  simp only [runCommand, h]

/-- Every command word answers a next state. -/
theorem runCommand_answers (w : Word) (s : State) : ∃ t, runCommand w s = .next t := by
  rcases runCommand_cases w s with ⟨i, -, hr⟩ | ⟨-, hr⟩
  · exact hr ▸ exec_next i _
  · exact ⟨_, hr⟩

/-- An operation writes neither `CMD` nor the pending actions (10_state R11, R13). -/
theorem exec_cmd_pending {i : Instr} {s t : State} (h : exec i s = .next t) :
    t.cmd = s.cmd ∧ t.pending = s.pending := by
  obtain ⟨-, -, hcmd, -, hpending, -, -⟩ := Proofs.operationsNeverWriteTheHostsSide i s t h
  exact ⟨hcmd, hpending⟩

/-- A command leaves its word in `CMD` and the later host actions pending (10_state R13). -/
theorem runCommand_cmd_pending {w : Word} {s t : State} (h : runCommand w s = .next t) :
    t.cmd = w ∧ t.pending = s.pending := by
  rcases runCommand_next h with ⟨i, -, hi⟩ | rfl
  · exact exec_cmd_pending hi
  · exact ⟨rfl, rfl⟩

/-- The fields of `CONFIG` (10_state R15). -/
theorem configWord_toNat (p : Params) :
    (configWord p).toNat = p.profile.code + p.gen.code * 2 + (p.nlayers - 1) % 16 * 16 := by
  have hprofile : p.profile.code < 2 := by cases p.profile <;> decide
  have hgen : p.gen.code < 2 := by cases p.gen <;> decide
  rw [configWord, or_shiftLeft (k := 1) (by omega), or_shiftLeft (k := 4) (by omega)]
  exact toWord_toNat_of_lt (by omega)

/-- Legal parameters have 1 to 16 layers (00_scope R4). -/
theorem nlayers_of_paramsWf {p : Params} (h : paramsWf p = true) : 1 ≤ p.nlayers ∧ p.nlayers ≤ 16 := by
  simp only [paramsWf, Bool.and_eq_true, decide_eq_true_eq] at h
  tauto

end Sys2Proof.Machine

namespace Sys2Proof.Proofs

open Sys2Proof.Machine Sys2Proof.Claims

/-- Settles O1: both accesses reach `CMD`, where a decodable word runs its operation. -/
theorem stepRunsTheDecodedCommand : Obligations.StepRunsTheDecodedCommand := by
  unfold Obligations.StepRunsTheDecodedCommand
  intro s w rest i hi
  have hrun : runCommand w (s.setPending rest) = exec i { s with pending := rest, cmd := w } := runCommand_ok hi
  constructor
  · intro hp
    exact (step_command hp).trans hrun
  · rintro hp rfl
    exact (step_writeBack hp (by decide) (by decide)).trans hrun

/-- Settles O2. -/
theorem commandRegisterHoldsTheLastWord : Obligations.CommandRegisterHoldsTheLastWord := by
  unfold Obligations.CommandRegisterHoldsTheLastWord
  refine ⟨rfl, fun s w rest hp => ⟨?_, fun i hi => ?_, fun e he => ?_⟩, fun s rest hp => ?_,
    fun w => ⟨rfl, rfl, rfl, rfl⟩⟩
  · obtain ⟨t, ht⟩ := runCommand_answers w (s.setPending rest)
    exact ⟨t, (step_command hp).trans ht, runCommand_cmd_pending ht⟩
  · exact (stepRunsTheDecodedCommand s w rest i hi).1 hp
  · exact (step_command hp).trans (runCommand_error he)
  · exact step_read hp (by decide) (by decide)

/-- Settles O3, by induction on the number of steps. -/
theorem idleBlockKeepsItsState : Obligations.IdleBlockKeepsItsState := by
  unfold Obligations.IdleBlockKeepsItsState
  intro s hs k
  induction k with
  | zero => exact run_zero s
  | succ k ih => rw [run_succ (step_idle hs), ih]

/-- Settles O42. -/
theorem configShowsTheImmutableParameters : Obligations.ConfigShowsTheImmutableParameters := by
  unfold Obligations.ConfigShowsTheImmutableParameters
  refine ⟨fun p hp => ?_, fun s rest hp => ?_, fun s v rest hp => ?_, fun s t => step_params⟩
  · have hprofile : p.profile.code = if p.profile = .standard then 0 else 1 := by cases p.profile <;> rfl
    have hgen : p.gen.code = if p.gen = .offsetRegisters then 0 else 1 := by cases p.gen <;> rfl
    have hn := nlayers_of_paramsWf hp
    rw [configWord_toNat, hprofile, hgen]
    split_ifs <;> omega
  · exact step_read hp (by decide) (by decide)
  · exact step_write hp (by decide) (by decide)

/-- Settles O46. -/
theorem resetLeavesTheStatedValues : Obligations.ResetLeavesTheStatedValues := by
  unfold Obligations.ResetLeavesTheStatedValues
  exact ⟨fun p d => ⟨rfl, rfl, fun l => by simp [State.layer, State.powerOn], rfl, rfl, rfl, rfl⟩, rfl⟩

/-- Settles O47. -/
theorem resetEventSparesTheDisplayController : Obligations.ResetEventSparesTheDisplayController := by
  unfold Obligations.ResetEventSparesTheDisplayController
  intro s rest hp
  exact ⟨_, step_reset hp, rfl, rfl, Safety.valid_resetBlock (s.setPending rest) _, rfl, rfl, rfl, rfl, rfl, rfl⟩

end Sys2Proof.Proofs
end

section
/-! SUPPORT. Operations of a state with other operand registers and another `STATUS`: where the operands an
operation names agree, it does the same. -/

namespace Sys2Proof.Machine

open Sys2Proof.Claims

/-- The state with all operand registers and `STATUS` replaced. -/
def State.overlay (s : State) (a' : Vector Word 8) (v : Word) : State := { s with a := a', status := v }

section
variable {s : State} {a' : Vector Word 8} {v : Word}

/-- The end of a command overwrites the replaced `STATUS` and keeps the replaced operands. -/
theorem finish_overlay {x : Except ErrorKind State} {t : State} (h : finish s x = .next t) :
    finish (s.overlay a' v) (x.map fun u => u.overlay a' v) = .next { t with a := a' } := by
  rcases finish_cases h with ⟨e, rfl, rfl⟩ | ⟨u, rfl, rfl⟩ <;> rfl

/-- A check with the same answer, then effects that correspond. -/
theorem bind_overlay {α : Type} {x : Except ErrorKind α} {f g : α → Except ErrorKind State}
    (h : ∀ y, f y = (g y).map fun u => u.overlay a' v) :
    (x >>= f) = (x >>= g).map fun u => u.overlay a' v := by
  cases x with
  | error e => rfl
  | ok y => exact h y

/-! ### The operations of the state -/

theorem State.draw_overlay : (s.overlay a' v).draw = (s.draw.1, s.draw.2.overlay a' v) := by
  cases hs : s.answers <;> simp [State.draw, State.overlay, hs]

theorem State.answer_overlay (l : BitVec 4) (c : Slot) :
    (s.overlay a' v).answer l c = ((s.answer l c).1, (s.answer l c).2.overlay a' v) := by
  unfold State.answer
  rw [State.draw_overlay]
  simp only [State.overlay]
  cases s.params.collab with
  | oracle => rfl
  | shadow => cases s.hw.read (slotKey l c) <;> rfl

theorem State.regRead_overlay (l : BitVec 4) (c : Slot) :
    (s.overlay a' v).regRead l c = ((s.regRead l c).1, (s.regRead l c).2.overlay a' v) := by
  unfold State.regRead
  rw [State.answer_overlay]
  rfl

theorem State.regWrites_overlay (l : BitVec 4) (ws : List (Slot × Word)) :
    (s.overlay a' v).regWrites l ws = (s.regWrites l ws).overlay a' v := by
  induction ws generalizing s with
  | nil => rfl
  | cons w ws ih => exact ih (s := s.regWrite l w.1 w.2)

theorem readGeometry_overlay (l : BitVec 4) (L : LayerRecord) :
    readGeometry (s.overlay a' v) l L = ((readGeometry s l L).1, (readGeometry s l L).2.overlay a' v) := by
  unfold readGeometry
  simp only [State.regRead_overlay]
  simp only [State.overlay]
  cases s.params.gen <;> rfl

theorem operand8_overlay {k : Fin 8} (h : (s.overlay a' v).operand k = s.operand k) :
    (s.overlay a' v).operand8 k = s.operand8 k := congrArg (bits 7 0) h

theorem ok_setColour_overlay {c c' : Colour} (h : c' = c) :
    (Except.ok ((s.overlay a' v).setColour c') : Except ErrorKind State) =
      (Except.ok (s.setColour c)).map fun u => u.overlay a' v := by
  subst h
  rfl

/-- The lookup reads `A0..A3` only (40_catalog R83). -/
theorem checkRequest_overlay (h0 : (s.overlay a' v).operand 0 = s.operand 0)
    (h1 : (s.overlay a' v).operand 1 = s.operand 1) (h2 : (s.overlay a' v).operand 2 = s.operand 2)
    (h3 : (s.overlay a' v).operand 3 = s.operand 3) : checkRequest (s.overlay a' v) = checkRequest s := by
  unfold checkRequest
  rw [h0, h1, h2, h3]
  rfl

/-! ### Every operation -/

/-- An operation whose named operands agree makes the same checks and corresponding effects (30_encoding R64). -/
theorem exec_overlay_eq_finish {i : Instr}
    (h : ∀ k ∈ namedOperands i, (s.overlay a' v).operand k = s.operand k) :
    ∃ x, exec i s = finish s x ∧
      exec i (s.overlay a' v) = finish (s.overlay a' v) (x.map fun u => u.overlay a' v) := by
  cases i with
  | fmtres =>
    simp only [namedOperands, List.forall_mem_cons] at h
    obtain ⟨h0, h1, h2, h3, -⟩ := h
    refine ⟨_, rfl, congrArg (finish _) ?_⟩
    rw [checkRequest_overlay h0 h1 h2 h3]
    exact bind_overlay fun id => rfl
  | lcfg l =>
    simp only [namedOperands, List.forall_mem_cons] at h
    obtain ⟨h0, h1, h2, h3, h4, h5, h6, -⟩ := h
    refine ⟨_, rfl, congrArg (finish _) ?_⟩
    rw [checkRequest_overlay h0 h1 h2 h3, h4, h5, h6]
    exact bind_overlay fun _ => bind_overlay fun id => bind_overlay fun _ => rfl
  | rgb2yuv | yuv2rgb =>
    simp only [namedOperands, List.forall_mem_cons] at h
    obtain ⟨h1, h2, h3, -⟩ := h
    refine ⟨.ok (s.setColour _), rfl, congrArg (finish _) (ok_setColour_overlay ?_)⟩
    rw [operand8_overlay h1, operand8_overlay h2, operand8_overlay h3]
    rfl
  | alpha2hw f | hw2alpha f | pxdec f =>
    simp only [namedOperands, List.forall_mem_cons] at h
    obtain ⟨h0, -⟩ := h
    refine ⟨_, rfl, congrArg (finish _) ?_⟩
    rw [h0]
    exact bind_overlay fun F => rfl
  | pxenc f =>
    simp only [namedOperands, List.forall_mem_cons] at h
    obtain ⟨h0, h1, h2, h3, -⟩ := h
    refine ⟨_, rfl, congrArg (finish _) ?_⟩
    unfold State.channelOperands
    rw [h0, h1, h2, h3]
    exact bind_overlay fun F => rfl
  | clutenc f =>
    simp only [namedOperands, List.forall_mem_cons] at h
    obtain ⟨h0, h1, -⟩ := h
    refine ⟨_, rfl, congrArg (finish _) ?_⟩
    rw [h0, h1]
    exact bind_overlay fun F => bind_overlay fun _ => rfl
  | geoset l =>
    simp only [namedOperands, List.forall_mem_cons] at h
    obtain ⟨h0, h1, h2, h3, h4, h5, -⟩ := h
    refine ⟨_, rfl, congrArg (finish _) ?_⟩
    unfold State.geometryOperands
    rw [h0, h1, h2, h3, h4, h5]
    refine bind_overlay fun L => bind_overlay fun g => ?_
    exact congrArg (fun u : State => Except.ok ((u.setGeometryResults g).setResult 6 _))
      (State.regWrites_overlay (s := s.setLayer l _) l _)
  | geoget l =>
    refine ⟨_, rfl, congrArg (finish _) ?_⟩
    simp only [readGeometry_overlay]
    exact bind_overlay fun L => rfl
  | regrd l =>
    simp only [namedOperands, List.forall_mem_cons] at h
    obtain ⟨h0, -⟩ := h
    refine ⟨_, rfl, congrArg (finish _) ?_⟩
    simp only [State.regRead_overlay]
    rw [h0]
    exact bind_overlay fun _ => bind_overlay fun c => rfl
  | regwr l =>
    simp only [namedOperands, List.forall_mem_cons] at h
    obtain ⟨h0, h1, -⟩ := h
    refine ⟨_, rfl, congrArg (finish _) ?_⟩
    rw [h0, h1]
    exact bind_overlay fun _ => bind_overlay fun c => rfl

end

/-- Neither an operand that the operation does not name nor the `STATUS` before it has an influence. -/
theorem exec_overlay {i : Instr} {s t : State} {a' : Vector Word 8} (v : Word)
    (h : ∀ k ∈ namedOperands i, a'[k] = s.a[k]) (ht : exec i s = .next t) :
    exec i (s.overlay a' v) = .next { t with a := a' } := by
  obtain ⟨x, hx, hx'⟩ := exec_overlay_eq_finish (s := s) (a' := a') (v := v) (i := i) h
  rw [hx']
  exact finish_overlay (hx ▸ ht)

end Sys2Proof.Machine

namespace Sys2Proof.Proofs

open Sys2Proof.Machine Sys2Proof.Claims

/-- Settles O15: the overlay of other operands under the same `STATUS`. -/
theorem unnamedOperandsHaveNoInfluence : Obligations.UnnamedOperandsHaveNoInfluence := by
  unfold Obligations.UnnamedOperandsHaveNoInfluence
  exact fun i s t a' h ht => exec_overlay s.status h ht

end Sys2Proof.Proofs
end

section
/-! SUPPORT. Command words and error codes: a word matches a row exactly when it is an operation's, and the
first check of an operation that fails gives its code. -/

namespace Sys2Proof

open Sys2Proof.Claims

/-! ### The words of the operations -/

/-- Decoding's table finds the row of every command word (30_encoding R61). -/
theorem selectRow_encode (i : Instr) : selectRow (encode i) = some i := by
  cases i with
  | fmtres | rgb2yuv | yuv2rgb => decide
  | lcfg l | geoset l | geoget l | regrd l | regwr l => revert l; decide
  | alpha2hw f | hw2alpha f | pxenc f | pxdec f | clutenc f => revert f; decide

/-- The command word of an operation the block has decodes to it (30_encoding R62). -/
theorem decode_encode {n : Nat} {i : Instr} (h : i.wf n = true) : decode n (encode i) = .ok i := by
  simp [decode, selectRow_encode, h]

/-- The fields of a command word, for any operation. -/
theorem fields_encode (i : Instr) : Laws.EncodeFields.Statement i := by
  cases i <;> exact Laws.encodeFields _ _ _

theorem matchesRow_encode (i : Instr) : MatchesRow (encode i) := by
  obtain ⟨ho, hl, hz, hf⟩ := fields_encode i
  rw [MatchesRow, ho, hl, hz, hf]
  cases i <;> simp [Instr.opcode, Instr.layer?, Instr.fmt?]

theorem layerOutOfRange_encode (n : Nat) (i : Instr) : LayerOutOfRange n (encode i) ↔ i.wf n = false := by
  obtain ⟨ho, hl, -, -⟩ := fields_encode i
  rw [LayerOutOfRange, ho, hl]
  cases i <;> simp [Instr.opcode, Instr.layer?, Instr.wf]

theorem exists_encode_of_plainOp {op : BitVec 8} (h : op ∈ plainOps) :
    ∃ i, encode i = commandWord op 0 0 := by
  simp only [List.mem_cons, List.not_mem_nil, or_false] at h
  rcases h with rfl | rfl | rfl
  exacts [⟨.fmtres, rfl⟩, ⟨.rgb2yuv, rfl⟩, ⟨.yuv2rgb, rfl⟩]

theorem exists_encode_of_layerOp {op : BitVec 8} (h : op ∈ layerOps) (l : BitVec 4) :
    ∃ i, encode i = commandWord op l 0 := by
  simp only [List.mem_cons, List.not_mem_nil, or_false] at h
  rcases h with rfl | rfl | rfl | rfl | rfl
  exacts [⟨.lcfg l, rfl⟩, ⟨.geoset l, rfl⟩, ⟨.geoget l, rfl⟩, ⟨.regrd l, rfl⟩, ⟨.regwr l, rfl⟩]

theorem exists_encode_of_fmtOp {op : BitVec 8} (h : op ∈ fmtOps) (f : BitVec 5) :
    ∃ i, encode i = commandWord op 0 f := by
  simp only [List.mem_cons, List.not_mem_nil, or_false] at h
  rcases h with rfl | rfl | rfl | rfl | rfl
  exacts [⟨.alpha2hw f, rfl⟩, ⟨.hw2alpha f, rfl⟩, ⟨.pxenc f, rfl⟩, ⟨.pxdec f, rfl⟩, ⟨.clutenc f, rfl⟩]

/-- A word that matches a row is an operation's command word (30_encoding R61). -/
theorem exists_encode_of_matchesRow {w : Word} (h : MatchesRow w) : ∃ i, encode i = w := by
  obtain ⟨hz, ⟨ho, hl, hf⟩ | ⟨ho, hf⟩ | ⟨ho, hl⟩⟩ := h
  · rw [← commandWord_fields hz, hl, hf]; exact exists_encode_of_plainOp ho
  · rw [← commandWord_fields hz, hf]; exact exists_encode_of_layerOp ho _
  · rw [← commandWord_fields hz, hl]; exact exists_encode_of_fmtOp ho _

/-- A word that does not decode matches no row or names an absent layer (30_encoding R63). -/
theorem illegal_of_decode_error {n : Nat} {w : Word} {e : DecodeError} (h : decode n w = .error e) :
    ¬ MatchesRow w ∨ LayerOutOfRange n w := by
  by_contra hn
  obtain ⟨hm, hl⟩ := not_or.1 hn
  obtain ⟨i, rfl⟩ := exists_encode_of_matchesRow (not_not.1 hm)
  rw [layerOutOfRange_encode, Bool.not_eq_false] at hl
  rw [decode_encode hl] at h
  cases h

namespace Machine

/-! ### The code of a sequence of checks -/

/-- The code that `STATUS` takes (60_exceptions R171). -/
def errorCode {α : Type} : Except ErrorKind α → Nat
  | .error e => e.code
  | .ok _ => 0

@[simp] theorem errorCode_error {α : Type} (e : ErrorKind) :
    errorCode (.error e : Except ErrorKind α) = e.code := rfl
@[simp] theorem errorCode_ok {α : Type} (a : α) : errorCode (.ok a : Except ErrorKind α) = 0 := rfl

theorem finish_status {s t : State} {x : Except ErrorKind State} (h : finish s x = .next t) :
    t.status = BitVec.ofNat 32 (errorCode x) := by
  rcases finish_cases h with ⟨e, rfl, rfl⟩ | ⟨u, rfl, rfl⟩ <;> rfl

/-- The first failing check of two gives the code (60_exceptions R172). -/
theorem errorCode_bind {α β : Type} {x : Except ErrorKind α} {f : α → Except ErrorKind β} {c : Nat}
    (h : ∀ a, x = .ok a → errorCode (f a) = c) :
    errorCode (x >>= f) = if errorCode x = 0 then c else errorCode x := by
  cases x with
  | error e => cases e <;> rfl
  | ok a => exact h a rfl

/-- Effects after a check add no code. -/
theorem errorCode_bind_ok {α β : Type} {x : Except ErrorKind α} {f : α → β} :
    errorCode (x >>= fun a => .ok (f a)) = errorCode x := by
  cases x <;> rfl

theorem errorCode_checkRequest (s : State) :
    errorCode (checkRequest s) = if ∃ id : Fin 24, RowMatches s.params.catalog[id] s then 0 else 1 := by
  by_cases h : ∃ id : Fin 24, RowMatches s.params.catalog[id] s
  · rw [if_pos h]
    cases hc : checkRequest s with
    | ok id => rfl
    | error e =>
      obtain ⟨id, hid⟩ := h
      unfold checkRequest resolve at hc
      split at hc
      · next hf =>
        exact absurd ((keyMatches_iff ..).2 hid) (List.find?_eq_none.1 hf id (List.mem_finRange id))
      · cases hc
  · rw [if_neg h, checkRequest_error fun id => Bool.eq_false_iff.2 fun hk => h ⟨id, (keyMatches_iff ..).1 hk⟩]
    rfl

theorem errorCode_checkLayer {s : State} {l : BitVec 4} (hl : l.toNat < s.params.nlayers) :
    errorCode (checkLayer s l) = 0 := by
  rw [checkLayer_ok hl]; rfl

theorem errorCode_checkSizes (s : State) :
    errorCode (checkSizes s.params (lowHalf (s.operand 4)) (highHalf (s.operand 4)) (lowHalf (s.operand 5))
      (highHalf (s.operand 5))) = if BadSizes s then 4 else 0 := by
  simp only [checkSizes_eq, lowHalf_toNat, highHalf_toNat]
  exact apply_ite errorCode (BadSizes s) _ _

theorem errorCode_checkFormat (s : State) (f : BitVec 5) :
    errorCode (checkFormat s f) = if 24 ≤ f.toNat then 1 else 0 := by
  split_ifs with h
  · rw [checkFormat_error h]; rfl
  · rw [checkFormat_ok (Nat.lt_of_not_le h)]; rfl

theorem errorCode_checkLayerAlpha (s : State) (f : BitVec 5) :
    errorCode (checkLayerAlpha s f) = if 24 ≤ f.toNat then 1
      else if ∀ F ∈ s.params.catalog[f.toNat]?, F.tm = .layer then 0 else 2 := by
  split_ifs with h ht
  · rw [checkLayerAlpha_error_format h]; rfl
  · rw [checkLayerAlpha_ok (Nat.lt_of_not_le h) (ht _ (by simp [Nat.lt_of_not_le h]))]; rfl
  · rw [checkLayerAlpha_error_mode (Nat.lt_of_not_le h)]
    · rfl
    · simpa [Nat.lt_of_not_le h] using ht

theorem errorCode_checkRange (start count : Nat) :
    errorCode (checkRange start count) = if start + count > 256 then 5 else 0 :=
  apply_ite errorCode (start + count > 256) _ _

theorem errorCode_checkConfigured {s : State} {l : BitVec 4} (hl : l.toNat < s.params.nlayers) :
    errorCode (checkConfigured s l) = if (s.layer l).valid = false then 7 else 0 := by
  split_ifs with h
  · rw [checkConfigured_error_valid hl h]; rfl
  · rw [checkConfigured_ok hl (by simpa using h)]; rfl

theorem errorCode_validate (s : State) (l : BitVec 4) (F : PixelFormat) :
    errorCode (validate (s.layer l) F s.geometryOperands) =
      if BadPosition s l then 3 else if EmptyRequest s then 4 else 0 := by
  have hempty : EmptyRequest s ↔ s.geometryOperands.w = 0 ∨ s.geometryOperands.h = 0 := by
    simp only [← BitVec.toNat_inj]; rfl
  rcases validate_cases (s.layer l) F s.geometryOperands with ⟨hp, hv⟩ | ⟨hp, he, hv⟩ | ⟨hp, he, hv⟩
  · rw [hv, if_pos (show BadPosition s l from hp)]; rfl
  · rw [hv, if_neg (show ¬ BadPosition s l from hp), if_pos (hempty.2 he)]; rfl
  · rw [hv, if_neg (show ¬ BadPosition s l from hp), if_neg (mt hempty.1 he)]; rfl

/-- The same for the record that the check before it answers. -/
theorem errorCode_validate_configured {s : State} {l : BitVec 4} {L : LayerRecord}
    (hL : checkConfigured s l = .ok L) (F : PixelFormat) : errorCode (validate L F s.geometryOperands) =
      if BadPosition s l then 3 else if EmptyRequest s then 4 else 0 := by
  obtain ⟨-, -, rfl⟩ := checkConfigured_cases hL
  exact errorCode_validate s l F

theorem errorCode_checkSlot (v : Word) : errorCode (checkSlot v) = if v.toNat ≥ 10 then 6 else 0 := by
  split_ifs with h
  · rw [checkSlot_error h]; rfl
  · cases hc : Slot.ofNumber? v.toNat with
    | none => exact absurd ((Slot.ofNumber_eq_none_iff _).1 hc) h
    | some c => rw [checkSlot_ok (Slot.ofNumber_eq_some hc).symm]; rfl

end Machine

end Sys2Proof
end

section
/-! SUPPORT. The code that each operation leaves in `STATUS`, against the spec's chain of checks. -/

namespace Sys2Proof.Machine

open Sys2Proof.Claims

/-- The chain of checks for the word of an operation that the block has. -/
theorem firstError_encode {s : State} {i : Instr} (h : i.wf s.params.nlayers = true) :
    firstError s (encode i) =
      if i.opcode ∈ fmtOps ∧ 24 ≤ (i.fmt?.getD 0).toNat then 1
      else if (i.opcode = 0x30 ∨ i.opcode = 0x31) ∧ (s.layer (i.layer?.getD 0)).valid = false then 7
      else ownError s (encode i) := by
  obtain ⟨ho, hl, -, hf⟩ := fields_encode i
  have hlayer : ¬ LayerOutOfRange s.params.nlayers (encode i) := by simp [layerOutOfRange_encode, h]
  unfold firstError
  rw [if_neg (not_not.2 (matchesRow_encode i)), if_neg hlayer, ho, hl, hf]

/-- An operation leaves the code of the first check that fails (60_exceptions R172). -/
theorem exec_status {i : Instr} {s t : State} (hw : i.wf s.params.nlayers = true) (h : exec i s = .next t) :
    t.status = BitVec.ofNat 32 (firstError s (encode i)) := by
  rw [firstError_encode hw]
  cases i with
  | fmtres =>
    refine (finish_status h).trans (congrArg _ (errorCode_bind_ok.trans ?_))
    rw [errorCode_checkRequest]
    simp [ownError, encode, Instr.opcode]
  | lcfg l =>
    refine (finish_status h).trans (congrArg _ ((errorCode_bind fun _ _ => errorCode_bind fun id _ =>
      errorCode_bind_ok.trans (errorCode_checkSizes s)).trans ?_))
    rw [errorCode_checkLayer (of_decide_eq_true hw), errorCode_checkRequest]
    have hown : ownError s (encode (.lcfg l)) =
        if ∃ id : Fin 24, RowMatches s.params.catalog[id] s then (if BadSizes s then 4 else 0) else 1 := by
      simp [ownError, encode]
    rw [hown]
    by_cases hid : ∃ id : Fin 24, RowMatches s.params.catalog[id] s
    · rw [if_pos hid, if_pos hid]; rfl
    · rw [if_neg hid, if_neg hid]; rfl
  | rgb2yuv | yuv2rgb =>
    refine (finish_status (s := s) (x := .ok _) h).trans (congrArg _ ?_)
    simp [ownError, encode, Instr.opcode]
  | alpha2hw f | hw2alpha f =>
    refine (finish_status h).trans (congrArg _ (errorCode_bind_ok.trans ?_))
    rw [errorCode_checkLayerAlpha]
    simp [ownError, encode, Instr.opcode, Instr.fmt?]
  | pxenc f | pxdec f =>
    refine (finish_status h).trans (congrArg _ (errorCode_bind_ok.trans ?_))
    rw [errorCode_checkFormat]
    simp [ownError, encode, Instr.opcode, Instr.fmt?]
  | clutenc f =>
    refine (finish_status h).trans (congrArg _ ((errorCode_bind fun F _ =>
      errorCode_bind_ok.trans (errorCode_checkRange s.a[0].toNat s.a[1].toNat)).trans ?_))
    rw [errorCode_checkFormat]
    by_cases hf : 24 ≤ f.toNat <;> simp [ownError, encode, Instr.opcode, Instr.fmt?, hf]
  | geoset l =>
    refine (finish_status h).trans (congrArg _ ((errorCode_bind fun L hL => errorCode_bind_ok.trans
      (errorCode_validate_configured hL _)).trans ?_))
    rw [errorCode_checkConfigured (of_decide_eq_true hw)]
    cases hv : (s.layer l).valid <;> simp [ownError, encode, Instr.opcode, Instr.layer?, hv]
  | geoget l =>
    refine (finish_status h).trans (congrArg _ (errorCode_bind_ok.trans ?_))
    rw [errorCode_checkConfigured (of_decide_eq_true hw)]
    simp [ownError, encode, Instr.opcode, Instr.layer?]
  | regrd l | regwr l =>
    refine (finish_status h).trans (congrArg _ ((errorCode_bind fun _ _ =>
      errorCode_bind_ok.trans (errorCode_checkSlot s.a[0])).trans ?_))
    rw [errorCode_checkLayer (of_decide_eq_true hw)]
    simp [ownError, encode, Instr.opcode]

/-- A command leaves the code of the first check that fails, legal word or not (30_encoding R70). -/
theorem runCommand_status {w : Word} {s t : State} (h : runCommand w s = .next t) :
    t.status = BitVec.ofNat 32 (firstError s w) := by
  rcases runCommand_cases w s with ⟨i, hi, hr⟩ | ⟨⟨e, he⟩, hr⟩
  · obtain ⟨hsel, hwf⟩ := decode_ok hi
    have hstatus := exec_status (s := s.setCmd w) hwf (hr ▸ h)
    rwa [encode_of_selectRow hsel] at hstatus
  · obtain rfl := next_inj (h.symm.trans hr)
    rcases illegal_of_decode_error he with hm | hl
    · rw [firstError, if_pos hm]; rfl
    · rw [firstError, if_pos hl, ite_self]; rfl

theorem runCommand_status_le {w : Word} {s t : State} (h : runCommand w s = .next t) : t.status.toNat ≤ 8 := by
  rcases runCommand_next h with ⟨i, -, hi⟩ | rfl
  · exact exec_status_le hi
  · exact statusOf_le _

/-- The `STATUS` before a command has no influence on it (10_state R14). -/
theorem exec_setStatus (i : Instr) (s : State) (v : Word) : exec i (s.setStatus v) = exec i s := by
  obtain ⟨t, ht⟩ := exec_next i s
  obtain ⟨ha, -⟩ := Proofs.operationsNeverWriteTheHostsSide i s t ht
  have hv : exec i (s.setStatus v) = .next { t with a := s.a } := exec_overlay v (fun _ _ => rfl) ht
  rw [hv, ht, ← ha]

theorem runCommand_setStatus (w : Word) (s : State) (v : Word) :
    runCommand w (s.setStatus v) = runCommand w s := by
  unfold runCommand
  rw [State.setStatus_params]
  cases decode s.params.nlayers w with
  | ok i => exact exec_setStatus i (s.setCmd w) v
  | error e => rfl

end Sys2Proof.Machine

namespace Sys2Proof.Proofs

open Sys2Proof.Machine Sys2Proof.Claims

/-- Settles O11: the code by the chain of checks, and the independence because the end of every command
overwrites `STATUS`. -/
theorem statusRegisterIsNotSticky : Obligations.StatusRegisterIsNotSticky := by
  unfold Obligations.StatusRegisterIsNotSticky
  refine ⟨rfl, fun s v rest hp => ?_, fun s rest hp => ?_, fun s w rest hp => ⟨?_, fun v => ?_⟩⟩
  · exact step_write hp (by decide) (by decide)
  · exact step_read hp (by decide) (by decide)
  · obtain ⟨t, ht⟩ := runCommand_answers w (s.setPending rest)
    exact ⟨t, (step_command hp).trans ht, (runCommand_status ht :), runCommand_status_le ht⟩
  · calc step { s with status := v } = runCommand w ((s.setPending rest).setStatus v) := step_command hp
      _ = runCommand w (s.setPending rest) := runCommand_setStatus ..
      _ = step s := (step_command hp).symm

end Sys2Proof.Proofs
end

section
/-! SUPPORT. The host register space: where an access leads, what it changes, and that a host inside the
contract is always answered. -/

namespace Sys2Proof.Machine

open Sys2Proof.Safety Sys2Proof.Claims

/-! ### Accesses outside the contract (20_memory R42, R53) -/

/-- The next host action is a write, a read or a write-back of the given width at the given offset. -/
def AccessesPort (s : State) (width offset : Nat) : Prop :=
  ∃ v rest, s.pending = .write width offset v :: rest ∨ s.pending = .read width offset :: rest ∨
    s.pending = .writeBack width offset :: rest

/-- Whatever the form of the access, a target outside the contract refuses it. -/
theorem step_refused {s : State} {width offset : Nat} {e : Refusal} (h : AccessesPort s width offset)
    (he : hostTarget width offset = .error e) : step s = .refused e := by
  obtain ⟨v, rest, hp | hp | hp⟩ := h <;> simp only [step, stepHost, hp, serve, he]

theorem hostTarget_width {width : Nat} (offset : Nat) (h : width ≠ 32) :
    hostTarget width offset = .error (.accessWidth width) := if_pos h

theorem hostTarget_misaligned {offset : Nat} (h : offset % 4 ≠ 0) :
    hostTarget 32 offset = .error (.misalignedAccess offset) := by
  simp [hostTarget, h]

theorem hostTarget_outside {offset : Nat} (h4 : offset % 4 = 0) (h : 0xC00 ≤ offset) :
    hostTarget 32 offset = .error (.outsideBlock offset) := by
  simp [hostTarget, h4, h]

/-- A host write is an access of 32 bits. -/
theorem accessesPort_of_hostWrites {s : State} {offset : Nat} {v : Word} {rest : List HostAction}
    (h : HostWrites s offset v rest) : AccessesPort s 32 offset :=
  ⟨v, rest, h.elim .inl fun hb => .inr (.inr hb.1)⟩

/-! ### Writes inside the contract (20_memory R41) -/

/-- A plain write and the write half of a `MOV` write the same. -/
theorem step_hostWrites {s : State} {offset : Nat} {v : Word} {rest : List HostAction}
    (h : HostWrites s offset v rest) (h4 : offset % 4 = 0) (hlt : offset < 0xC00) :
    step s = hostWrite (hostRegAt (offset / 4)) v (s.setPending rest) := by
  rcases h with hp | ⟨hp, rfl⟩
  · exact step_write hp h4 hlt
  · exact step_writeBack hp h4 hlt

/-- The reserved offsets (20_memory R53). -/
theorem hostRegAt_reserved_offset {offset : Nat} (h4 : offset % 4 = 0)
    (h : (0x00C ≤ offset ∧ offset ≤ 0x01C) ∨ (0x060 ≤ offset ∧ offset ≤ 0x3FC)) :
    hostRegAt (offset / 4) = .reserved := hostRegAt_reserved (by omega)

/-! ### A host inside the contract (20_memory R42) -/

/-- A host write is always answered, and the host's list of actions stays. -/
theorem hostWrite_answers (r : HostReg) (v : Word) (s : State) :
    ∃ t, hostWrite r v s = .next t ∧ t.pending = s.pending := by
  cases r with
  | cmd =>
    obtain ⟨t, ht⟩ := runCommand_answers v s
    exact ⟨t, ht, (runCommand_cmd_pending ht).2⟩
  | _ => exact ⟨_, rfl, rfl⟩

theorem hostRead_pending (r : HostReg) (s : State) : (hostRead r s).2.pending = s.pending := by
  cases r with
  | reserved => exact (congrArg State.pending s.draw_state :)
  | _ => rfl

/-- An action inside the contract is served, and no action is added behind it. -/
theorem serve_answers {act : HostAction} (h : InContract act) (s : State) :
    ∃ t, serve act s = .next t ∧ t.pending ⊆ s.pending := by
  cases act with
  | write width offset v =>
    obtain ⟨rfl, h4, hlt⟩ := h
    obtain ⟨t, ht, hp⟩ := hostWrite_answers (hostRegAt (offset / 4)) v s
    exact ⟨t, by simp only [serve, hostTarget_ok h4 hlt, ht], hp ▸ List.Subset.refl _⟩
  | read width offset =>
    obtain ⟨rfl, h4, hlt⟩ := h
    refine ⟨_, by simp only [serve, hostTarget_ok h4 hlt]; rfl, ?_⟩
    rw [State.setReadData_pending, hostRead_pending]
    exact List.Subset.refl _
  | writeBack width offset =>
    obtain ⟨rfl, h4, hlt⟩ := h
    obtain ⟨t, ht, hp⟩ := hostWrite_answers (hostRegAt (offset / 4)) s.readData s
    exact ⟨t, by simp only [serve, hostTarget_ok h4 hlt, ht], hp ▸ List.Subset.refl _⟩
  | stopOnError count =>
    refine ⟨_, rfl, ?_⟩
    rw [State.setPending_pending]
    split
    · exact List.Subset.refl _
    · exact List.drop_subset _ _
  | reset => exact ⟨_, rfl, List.Subset.refl _⟩

/-- One step of such a host. -/
theorem step_inContract {s : State} (h : HostInContract s) : ∃ t, step s = .next t ∧ HostInContract t := by
  cases hp : s.pending with
  | nil => exact ⟨s, step_idle hp, h⟩
  | cons act rest =>
    unfold HostInContract at h
    rw [hp] at h
    obtain ⟨hact, hrest⟩ := List.forall_mem_cons.1 h
    obtain ⟨t, ht, hsub⟩ := serve_answers hact (s.setPending rest)
    exact ⟨t, by simp only [step, stepHost, hp, ht], fun a ha => hrest a (hsub ha)⟩

end Sys2Proof.Machine

namespace Sys2Proof.Proofs

open Sys2Proof.Machine Sys2Proof.Safety Sys2Proof.Claims

/-- Settles O44. -/
theorem narrowOrMisalignedAccessIsRefused : Obligations.NarrowOrMisalignedAccessIsRefused := by
  unfold Obligations.NarrowOrMisalignedAccessIsRefused
  intro s width offset v rest h
  have hport : AccessesPort s width offset := ⟨v, rest, h⟩
  refine ⟨fun hw => step_refused hport (hostTarget_width offset hw), ?_⟩
  rintro rfl h4
  exact step_refused hport (hostTarget_misaligned h4)

/-- Settles O40, by the register at the offset. -/
theorem hostWritesStoreOnlyOperandsAndEntries : Obligations.HostWritesStoreOnlyOperandsAndEntries := by
  unfold Obligations.HostWritesStoreOnlyOperandsAndEntries
  intro s offset v rest hw
  refine ⟨?_, ?_, ?_⟩
  · rintro i rfl
    rw [step_hostWrites hw (by omega) (by omega), hostRegAt_operand]
    rfl
  · rintro i rfl
    rw [step_hostWrites hw (by omega) (by omega), hostRegAt_entry]
    rfl
  · rintro (rfl | rfl | ⟨i, rfl⟩ | ⟨i, rfl⟩)
    · exact step_hostWrites hw (by decide) (by decide)
    · exact step_hostWrites hw (by decide) (by decide)
    · rw [step_hostWrites hw (by omega) (by omega), hostRegAt_result]
      rfl
    · rw [step_hostWrites hw (by omega) (by omega), hostRegAt_clut]
      rfl

/-- Settles O41, by the register at the offset. -/
theorem hostReadsReturnCurrentValues : Obligations.HostReadsReturnCurrentValues := by
  unfold Obligations.HostReadsReturnCurrentValues
  intro s offset rest hp
  refine ⟨?_, ?_, ?_, ?_, ?_, ?_, ?_⟩
  · rintro rfl
    exact step_read hp (by decide) (by decide)
  · rintro rfl
    exact step_read hp (by decide) (by decide)
  · rintro rfl
    exact step_read hp (by decide) (by decide)
  · rintro i rfl
    rw [step_read hp (by omega) (by omega), hostRegAt_operand]
    rfl
  · rintro i rfl
    rw [step_read hp (by omega) (by omega), hostRegAt_result]
    rfl
  · rintro i rfl
    rw [step_read hp (by omega) (by omega), hostRegAt_entry]
    rfl
  · rintro i rfl
    rw [step_read hp (by omega) (by omega), hostRegAt_clut]
    rfl

/-- Settles O43: both ranges lead to no register, and 0xC00 lies outside the block. -/
theorem reservedOffsetsReadAnythingAndIgnoreWrites :
    Obligations.ReservedOffsetsReadAnythingAndIgnoreWrites := by
  unfold Obligations.ReservedOffsetsReadAnythingAndIgnoreWrites
  intro s offset v rest
  constructor
  · intro h4 hrange
    have hreg := hostRegAt_reserved_offset h4 hrange
    have hread : s.pending = .read 32 offset :: rest →
        step s = .next ((s.setPending rest).draw.2.setReadData (s.setPending rest).draw.1) := fun hp => by
      rw [step_read hp h4 (by omega), hreg]
      rfl
    refine ⟨fun hw => ?_, fun more hp ha => ?_, fun hp => ⟨_, hread hp, ?_⟩⟩
    · rw [step_hostWrites hw h4 (by omega), hreg]
      rfl
    · rw [hread hp]
      simp [State.draw, ha, State.setPending, State.setReadData]
    · rw [State.draw_state]
      rfl
  · intro h4 hout
    have hrefused := hostTarget_outside h4 hout
    exact ⟨fun hw => step_refused (accessesPort_of_hostWrites hw) hrefused,
      fun hp => step_refused ⟨v, rest, .inr (.inl hp)⟩ hrefused⟩

/-- Settles O45, by induction on the number of steps. -/
theorem hostInsideTheContractNeverStops : Obligations.HostInsideTheContractNeverStops := by
  unfold Obligations.HostInsideTheContractNeverStops
  intro s hs k
  induction k generalizing s with
  | zero => exact ⟨s, run_zero s, hs⟩
  | succ k ih =>
    obtain ⟨t, ht, htc⟩ := step_inContract hs
    rw [run_succ ht]
    exact ih t htc

end Sys2Proof.Proofs
end

section
/-! SUPPORT. The event history and the shadow array: how far one step extends the history, and that under the
shadow policy the array holds the last word recorded for each slot. -/

namespace Sys2Proof.Machine

open Sys2Proof.Safety Sys2Proof.Claims

/-! ### How far one step extends the history (20_memory R46, R54) -/

theorem runCommand_events {w : Word} {s t : State} (h : runCommand w s = .next t) :
    t.events = s.events ∨ ∃ l : BitVec 4, l.toNat < s.params.nlayers ∧ Accesses l 6 s t := by
  rcases runCommand_next h with ⟨i, -, hi⟩ | rfl
  · exact exec_events (s := s.setCmd w) hi
  · exact .inl rfl

/-- A step leaves the history or accesses one existing layer at most six times. -/
theorem step_events {s t : State} (h : step s = .next t) :
    t.events = s.events ∨ ∃ l : BitVec 4, l.toNat < s.params.nlayers ∧ Accesses l 6 s t := by
  rcases step_cases h with ⟨rest, w, hw⟩ | ⟨rest, rfl⟩ | hhost
  · exact runCommand_events (s := s.setPending rest) hw
  · exact .inl rfl
  · exact .inl (by rw [hhost])

/-- A step that records an access to a layer accesses an existing one. -/
theorem layer_of_step_event {s t : State} {new : List Event} {e : Event} (h : step s = .next t)
    (hnew : t.events = s.events ++ new) (he : e ∈ new) : (eventLayer e).toNat < s.params.nlayers := by
  rcases step_events h with ht | ⟨l, hl, new', ht, -, hlayer⟩
  · rw [List.append_cancel_left (hnew.symm.trans (ht.trans (List.append_nil _).symm))] at he
    cases he
  · rw [List.append_cancel_left (hnew.symm.trans ht)] at he
    exact hlayer e he ▸ hl

/-! ### The array as the sum of the recorded writes (20_memory R47) -/

/-- The array after one recorded access. -/
def Memory.record (m : Memory) : Event → Memory
  | .regWrite l c v => m.write (slotKey l c) v
  | .regRead _ _ _ => m

theorem Memory.read_record_other (m : Memory) {l : BitVec 4} {c : Slot} {e : Event}
    (h : ∀ v, e ≠ .regWrite l c v) : (m.record e).read (slotKey l c) = m.read (slotKey l c) := by
  cases e with
  | regRead l' c' v => rfl
  | regWrite l' c' v =>
    refine Memory.read_write_other m v fun hk => ?_
    obtain ⟨rfl, rfl⟩ := slotKey_injective hk
    exact h v rfl

/-- Accesses that write no word to a slot keep its word. -/
theorem Memory.read_record_unwritten (m : Memory) {l : BitVec 4} {c : Slot} {es : List Event}
    (h : ∀ v, Event.regWrite l c v ∉ es) :
    (es.foldl Memory.record m).read (slotKey l c) = m.read (slotKey l c) := by
  induction es generalizing m with
  | nil => rfl
  | cons e es ih =>
    have hes : ∀ v, Event.regWrite l c v ∉ es := fun v hv => h v (List.mem_cons_of_mem _ hv)
    have he : ∀ v, e ≠ .regWrite l c v := fun v hv => h v (hv ▸ List.mem_cons_self)
    exact (ih (m.record e) hes).trans (m.read_record_other he)

/-- The last word written to a slot is the one read (R47). -/
theorem Memory.read_record_last (m : Memory) {l : BitVec 4} {c : Slot} {w : Word} {before later : List Event}
    (h : ∀ v, Event.regWrite l c v ∉ later) :
    ((before ++ .regWrite l c w :: later).foldl Memory.record m).read (slotKey l c) = some w := by
  rw [List.foldl_append, List.foldl_cons, Memory.read_record_unwritten _ h]
  exact Memory.read_write_same _ _ _

/-- From `s` to `t` the array took every word that the history recorded, and no other. -/
def ArrayFollows (s t : State) : Prop :=
  ∃ new, t.events = s.events ++ new ∧ t.hw = new.foldl Memory.record s.hw

theorem ArrayFollows.of_eq {s t : State} (he : t.events = s.events) (hh : t.hw = s.hw) : ArrayFollows s t :=
  ⟨[], by simpa using he, hh⟩

theorem ArrayFollows.trans {s t u : State} (h1 : ArrayFollows s t) (h2 : ArrayFollows t u) :
    ArrayFollows s u := by
  obtain ⟨xs, hx, hxm⟩ := h1
  obtain ⟨ys, hy, hym⟩ := h2
  exact ⟨xs ++ ys, by rw [hy, hx, List.append_assoc], by rw [hym, hxm, List.foldl_append]⟩

theorem arrayFollows_regRead (s : State) (l : BitVec 4) (c : Slot) : ArrayFollows s (s.regRead l c).2 :=
  ⟨_, s.regRead_events l c, s.regRead_hw l c⟩

theorem arrayFollows_regWrite {s : State} (hc : s.params.collab = .shadow) (l : BitVec 4) (c : Slot) (v : Word) :
    ArrayFollows s (s.regWrite l c v) :=
  ⟨_, s.regWrite_events l c v, by simp [State.regWrite, hc, Memory.record]⟩

theorem arrayFollows_regWrites {s : State} (hc : s.params.collab = .shadow) (l : BitVec 4)
    (ws : List (Slot × Word)) : ArrayFollows s (s.regWrites l ws) := by
  induction ws generalizing s with
  | nil => exact .of_eq rfl rfl
  | cons w ws ih =>
    exact (arrayFollows_regWrite hc l w.1 w.2).trans (ih (s := s.regWrite l w.1 w.2) hc)

theorem arrayFollows_readGeometry (s : State) (l : BitVec 4) (L : LayerRecord) :
    ArrayFollows s (readGeometry s l L).2 := by
  have h4 : ArrayFollows s
      ((((s.regRead l .hpos).2.regRead l .vpos).2.regRead l .hsize).2.regRead l .vsize).2 :=
    (((arrayFollows_regRead ..).trans (arrayFollows_regRead ..)).trans (arrayFollows_regRead ..)).trans
      (arrayFollows_regRead ..)
  unfold readGeometry
  cases s.params.gen with
  | offsetRegisters => exact (h4.trans (arrayFollows_regRead ..)).trans (arrayFollows_regRead ..)
  | dynamicAddressing => exact h4

section
variable {s t : State}

theorem Effect.arrayFollows {i : Instr} (hc : s.params.collab = .shadow) (h : Effect s i t) :
    ArrayFollows s t := by
  cases h with
  | pure hi => exact .of_eq rfl rfl
  | lcfg hl hs => exact .of_eq rfl rfl
  | clutenc c => exact .of_eq rfl rfl
  | @geoset l g hl hv hg => exact arrayFollows_regWrites (s := s.setLayer l _) hc l _
  | geoget hl => exact arrayFollows_readGeometry ..
  | regrd c hl => exact arrayFollows_regRead ..
  | regwr hl hc' => exact arrayFollows_regWrite hc ..

theorem exec_arrayFollows {i : Instr} (hc : s.params.collab = .shadow) (h : exec i s = .next t) :
    ArrayFollows s t := by
  rcases exec_cases h with ⟨e, rfl⟩ | ⟨u, ws, hu, -, rfl⟩
  · exact .of_eq rfl rfl
  · exact (hu.arrayFollows hc).trans (.of_eq (by simp) (by simp))

/-- Under the shadow policy every step keeps array and history together (R47). -/
theorem step_arrayFollows (hc : s.params.collab = .shadow) (h : step s = .next t) : ArrayFollows s t := by
  rcases step_cases h with ⟨rest, w, hw⟩ | ⟨rest, rfl⟩ | hhost
  · rcases runCommand_next hw with ⟨i, -, hi⟩ | rfl
    · exact exec_arrayFollows (s := (s.setPending rest).setCmd w) hc hi
    · exact .of_eq rfl rfl
  · exact .of_eq rfl rfl
  · exact .of_eq (by rw [hhost]) (by rw [hhost])

/-- A step keeps the word of a slot that it does not write. -/
theorem leavesSlot_read {l : BitVec 4} {c : Slot} (hc : s.params.collab = .shadow) (h : LeavesSlot l c s t) :
    t.hw.read (slotKey l c) = s.hw.read (slotKey l c) := by
  obtain ⟨hstep, new, hnew, hout⟩ := h
  obtain ⟨new', hnew', hhw⟩ := step_arrayFollows hc hstep
  obtain rfl := List.append_cancel_left (hnew.symm.trans hnew')
  rw [hhw, Memory.read_record_unwritten _ hout]

/-- So does a run, which keeps the parameters too. -/
theorem leavesSlot_run {l : BitVec 4} {c : Slot} (hc : s.params.collab = .shadow)
    (h : Relation.ReflTransGen (LeavesSlot l c) s t) :
    t.params = s.params ∧ t.hw.read (slotKey l c) = s.hw.read (slotKey l c) := by
  induction h with
  | refl => exact ⟨rfl, rfl⟩
  | tail _ hstep ih =>
    obtain ⟨hp, hr⟩ := ih
    exact ⟨(step_params hstep.1).trans hp, (leavesSlot_read (hp ▸ hc) hstep).trans hr⟩

end

/-! ### REGRD of a slot that holds a word -/

/-- REGRD of an existing layer's slot reads that slot (45_regaccess R161). -/
theorem exec_regrd {s : State} {l : BitVec 4} {c : Slot} (hl : l.toNat < s.params.nlayers)
    (hc : s.a[0].toNat = c.number) :
    exec (.regrd l) s = .next ((s.regRead l c).2.setResult 0 (s.regRead l c).1).complete := by
  have hslot : checkSlot (s.operand 0) = .ok c := checkSlot_ok hc
  simp only [exec, execRegrd, checkLayer_ok hl, hslot, except_ok_bind]
  rfl

end Sys2Proof.Machine

namespace Sys2Proof.Proofs

open Sys2Proof.Machine Sys2Proof.Safety Sys2Proof.Claims

/-- Settles O50. -/
theorem historyGrowsByOneLayerAtATime : Obligations.HistoryGrowsByOneLayerAtATime := by
  unfold Obligations.HistoryGrowsByOneLayerAtATime
  intro s t h
  rcases step_events h with he | ⟨l, -, new, hnew, hlen, hlayer⟩
  · exact ⟨[], by simpa using he, by simp, 0, by simp⟩
  · exact ⟨new, hnew, hlen, l, hlayer⟩

/-- Settles O39: the step leaves the word as the slot's last one, the run keeps it, and REGRD reads it. -/
theorem shadowReadReturnsTheLastWrite : Obligations.ShadowReadReturnsTheLastWrite := by
  unfold Obligations.ShadowReadReturnsTheLastWrite
  intro s t u l c w before later hc hstep hevents hlater hrun hslot
  have hnew : t.events = s.events ++ (before ++ .regWrite l c w :: later) := by simpa using hevents
  have htp := step_params hstep
  have hread : t.hw.read (slotKey l c) = some w := by
    obtain ⟨new, hnew', hhw⟩ := step_arrayFollows hc hstep
    obtain rfl := List.append_cancel_left (hnew.symm.trans hnew')
    rw [hhw, Memory.read_record_last _ hlater]
  have hl : l.toNat < s.params.nlayers :=
    layer_of_step_event (e := .regWrite l c w) hstep hnew (by simp)
  obtain ⟨hup, hur⟩ := leavesSlot_run (htp ▸ hc) hrun
  have hup : u.params = s.params := hup.trans htp
  refine ⟨_, exec_regrd (hup ▸ hl) hslot, rfl, ?_⟩
  rw [State.regRead_shadow (hup ▸ hc) (hur.trans hread)]
  simp

end Sys2Proof.Proofs
end

section
/-! SUPPORT. The words that go to the collaborator and come back from it: the register encodings as numbers,
where the writes of GEOSET and REGWR land, and which words GEOGET and REGRD take. -/

namespace Sys2Proof.Machine

open Sys2Proof.Claims

/-! ### The register encodings as numbers (44_geometry R143) -/

theorem ofInt_sub (m n : Int) : BitVec.ofInt 32 (m - n) = BitVec.ofInt 32 m - BitVec.ofInt 32 n := by
  rw [Int.sub_eq_add_neg, BitVec.ofInt_add, BitVec.ofInt_neg, BitVec.sub_eq_add_neg]

theorem ofInt_toNat (v : Word) : BitVec.ofInt 32 (v.toNat : Int) = v := by
  rw [BitVec.ofInt_natCast, BitVec.ofNat_toNat, BitVec.setWidth_eq]

theorem ofInt_toNat_half (V : BitVec 16) : BitVec.ofInt 32 (V.toNat : Int) = V.zeroExtend 32 := by
  rw [BitVec.ofInt_natCast, BitVec.ofNat_toNat]

theorem encodePosition_eq_ofInt (V : BitVec 16) (x : Word) :
    encodePosition V x = BitVec.ofInt 32 ((V.toNat : Int) - ((x.toNat : Int) + 1)) := by
  rw [ofInt_sub, BitVec.ofInt_add, ofInt_toNat, ofInt_toNat_half]
  rfl

theorem decodePosition_eq_ofInt (V : BitVec 16) (r : Word) :
    decodePosition V r = BitVec.ofInt 32 ((V.toNat : Int) - 1 - r.toNat) := by
  rw [ofInt_sub, ofInt_sub, ofInt_toNat, ofInt_toNat_half]
  rfl

theorem encodeSize_eq_ofInt (w : Word) : encodeSize w = BitVec.ofInt 32 ((w.toNat : Int) - 1) := by
  rw [ofInt_sub, ofInt_toNat]
  rfl

theorem decodeSize_eq_ofNat (r : Word) : decodeSize r = BitVec.ofNat 32 (r.toNat + 1) := by
  rw [BitVec.ofNat_add, BitVec.ofNat_toNat, BitVec.setWidth_eq]
  rfl

theorem add_toWord (v : Word) (n : Nat) : v + toWord n = BitVec.ofNat 32 (v.toNat + n) := by
  rw [BitVec.ofNat_add, BitVec.ofNat_toNat, BitVec.setWidth_eq, toWord]

/-! ### Where the writes land (20_memory R46, R47) -/

theorem State.regWrites_hw_oracle {s : State} (hc : s.params.collab = .oracle) (l : BitVec 4)
    (ws : List (Slot × Word)) : (s.regWrites l ws).hw = s.hw := by
  induction ws generalizing s with
  | nil => rfl
  | cons w ws ih => exact (ih (s := s.regWrite l w.1 w.2) hc).trans (by simp [State.regWrite, hc])

/-- Writes to different slots each leave their word. -/
theorem State.regWrites_read_mem {s : State} (hc : s.params.collab = .shadow) {l : BitVec 4}
    {ws : List (Slot × Word)} (hnd : (ws.map Prod.fst).Nodup) {w : Slot × Word} (hw : w ∈ ws) :
    (s.regWrites l ws).hw.read (slotKey l w.1) = some w.2 := by
  induction ws generalizing s with
  | nil => cases hw
  | cons x ws ih =>
    rw [List.map_cons, List.nodup_cons] at hnd
    obtain ⟨hx, hnd⟩ := hnd
    rcases List.mem_cons.1 hw with rfl | hw
    · refine (State.regWrites_read_other _ l ws fun y hy hk => ?_).trans (State.regWrite_read_same hc l w.1 w.2)
      exact hx ((slotKey_injective hk).2 ▸ List.mem_map_of_mem hy)
    · exact ih (s := s.regWrite l x.1 x.2) hc hnd hw

theorem nodup_geometryWrites (s : State) (l : BitVec 4) : ((geometryWrites s l).map Prod.fst).Nodup := by
  unfold geometryWrites
  cases s.params.gen <;> simp

/-- A success of `validate`: the position lies in the visible area and the sizes are clamped (44_geometry R140). -/
theorem validate_ok {L : LayerRecord} {F : PixelFormat} {g g' : Geometry} (h : validate L F g = .ok g') :
    g.x.toNat ≤ L.visw.toNat ∧ g.y.toNat ≤ L.vish.toNat ∧
      g' = { g with w := evenWidth F.is422 (clampSize L.visw g.x g.w), h := clampSize L.vish g.y g.h } := by
  rcases validate_cases L F g with ⟨-, hv⟩ | ⟨-, -, hv⟩ | ⟨hpos, -, hv⟩
  · rw [hv] at h; cases h
  · rw [hv] at h; cases h
  · rw [hv] at h
    cases h
    exact ⟨by omega, by omega, rfl⟩

/-- GEOSET writes the spec's words in the spec's order (44_geometry R143, R144, R145). -/
theorem writeSequence_eq_geometryWrites {s : State} {l : BitVec 4} {g : Geometry}
    (hg : validate (s.layer l) s.params.catalog[(s.layer l).fmt] s.geometryOperands = .ok g) :
    writeSequence s.params.gen (s.layer l) g
      (byteOffset (s.layer l) s.params.catalog[(s.layer l).fmt] g.xoff g.yoff) = geometryWrites s l := by
  obtain ⟨hx, hy, rfl⟩ := validate_ok hg
  have hw : (evenWidth (layerFormat s l).is422 (clampSize (s.layer l).visw (s.operand 0) (s.operand 2))).toNat =
      clampedWidth s l := by
    have hclamp : (clampSize (s.layer l).visw (s.operand 0) (s.operand 2)).toNat =
        min s.a[2].toNat ((s.layer l).visw.toNat - s.a[0].toNat) := clampSize_toNat hx
    rw [evenWidth_toNat, hclamp]
    rfl
  have hh : (clampSize (s.layer l).vish (s.operand 1) (s.operand 3)).toNat = clampedHeight s l :=
    clampSize_toNat hy
  have haddr : (s.layer l).fbbase + byteOffset (s.layer l) (layerFormat s l) (s.operand 4) (s.operand 5) =
      BitVec.ofNat 32 ((s.layer l).fbbase.toNat + exactOffset s l) := add_toWord ..
  unfold geometryWrites
  rw [← hw, ← hh, ← haddr, ← encodeSize_eq_ofInt, ← encodeSize_eq_ofInt, ← encodePosition_eq_ofInt,
    ← encodePosition_eq_ofInt]
  cases s.params.gen <;> rfl

theorem State.regWrites_setLayer (s : State) (l l' : BitVec 4) (L : LayerRecord) (ws : List (Slot × Word)) :
    (s.setLayer l L).regWrites l' ws = (s.regWrites l' ws).setLayer l L := by
  induction ws generalizing s with
  | nil => rfl
  | cons w ws ih => exact ih (s.regWrite l' w.1 w.2)

/-- The array after a successful GEOSET: the spec's words written in order (44_geometry R141). -/
theorem geoset_hw {s t : State} {l : BitVec 4} (h : exec (.geoset l) s = .next t) (ht : t.status = 0) :
    t.hw = (s.regWrites l (geometryWrites s l)).hw := by
  obtain ⟨g, -, -, hg, rfl⟩ := execGeoset_success h ht
  rw [State.complete_hw, State.setResult_hw, State.setGeometryResults_hw, State.regWrites_setLayer,
    State.setLayer_hw, writeSequence_eq_geometryWrites hg]

/-- The array after a successful REGWR (45_regaccess R162). -/
theorem regwr_hw {s t : State} {l : BitVec 4} {c : Slot} (h : exec (.regwr l) s = .next t) (ht : t.status = 0)
    (hc : s.a[0].toNat = c.number) : t.hw = (s.regWrite l c s.a[1]).hw := by
  obtain ⟨c', -, hc', rfl⟩ := execRegwr_success h ht
  obtain rfl : c' = c := Slot.number_injective (hc'.symm.trans hc)
  rfl

/-! ### What the policy answers to several reads (20_memory R47) -/

/-- The state after reads of layer `l` that were answered as listed. -/
def State.afterReads (s : State) (l : BitVec 4) (xs : List (Slot × Word)) : State :=
  { s with
    events := s.events ++ xs.map fun x => .regRead l x.1 x.2
    answers := answersAfter s xs.length }

theorem answersAfter_zero (s : State) : answersAfter s 0 = s.answers := ite_self _

@[simp] theorem State.afterReads_nil (s : State) (l : BitVec 4) : s.afterReads l [] = s := by
  simp [State.afterReads, answersAfter_zero]

/-- Of the answers listed, each read takes the next one. -/
theorem regRead_afterReads {s : State} {l : BitVec 4} {xs ys : List (Slot × Word)} {c : Slot} {v : Word}
    (h : Answers s l (xs ++ (c, v) :: ys)) :
    (s.afterReads l xs).regRead l c = (v, s.afterReads l (xs ++ [(c, v)])) := by
  rcases h with ⟨hc, hread⟩ | ⟨hc, rest, hans⟩
  · rw [State.regRead_shadow (s := s.afterReads l xs) hc (hread (c, v) (by simp))]
    simp [State.afterReads, answersAfter, hc]
  · have hnext : (s.afterReads l xs).answers = v :: (ys.map Prod.snd ++ rest) := by
      simp [State.afterReads, answersAfter, hc, hans]
    have hlater : s.answers.drop (xs.length + 1) = ys.map Prod.snd ++ rest := by
      rw [← List.drop_drop, hans]
      simp
    rw [State.regRead_oracle (s := s.afterReads l xs) hc hnext]
    simp [State.afterReads, answersAfter, hc, hlater]


/-- REGRD returns the word that the policy answers (45_regaccess R161). -/
theorem exec_regrd_of_answers {s : State} {l : BitVec 4} {c : Slot} {v : Word} (hl : l.toNat < s.params.nlayers)
    (hc : s.a[0].toNat = c.number) (h : Answers s l [(c, v)]) :
    exec (.regrd l) s = .next ((s.afterReads l [(c, v)]).setResult 0 v).complete := by
  have hread := regRead_afterReads (xs := []) h
  rw [State.afterReads_nil] at hread
  rw [exec_regrd hl hc, hread]
  rfl

/-- What GEOGET decodes from the words read; under `GEN = 1` the offsets are the record's (44_geometry R148). -/
def decodedReads (g : GeometryReads) (gen : Gen) (L : LayerRecord) : Geometry where
  x := decodePosition L.visw g.hp
  y := decodePosition L.vish g.vp
  w := decodeSize g.hs
  h := decodeSize g.vs
  xoff := match gen with
    | .offsetRegisters => g.xo
    | .dynamicAddressing => L.geo.xoff
  yoff := match gen with
    | .offsetRegisters => g.yo
    | .dynamicAddressing => L.geo.yoff

/-- GEOGET's reads take the answers in their order. -/
theorem readGeometry_of_answers {s : State} {l : BitVec 4} {g : GeometryReads} (L : LayerRecord)
    (h : Answers s l (g.reads s)) :
    readGeometry s l L = (decodedReads g s.params.gen L, s.afterReads l (g.reads s)) := by
  have hfour : ∃ ys, g.reads s = [(.hpos, g.hp), (.vpos, g.vp), (.hsize, g.hs), (.vsize, g.vs)] ++ ys := by
    unfold GeometryReads.reads
    cases s.params.gen with
    | offsetRegisters => exact ⟨[(.hoff, g.xo), (.voff, g.yo)], rfl⟩
    | dynamicAddressing => exact ⟨[], rfl⟩
  obtain ⟨ys, hys⟩ := hfour
  have hp := regRead_afterReads (xs := []) (hys ▸ h)
  have vp := regRead_afterReads (xs := [(.hpos, g.hp)]) (hys ▸ h)
  have hs := regRead_afterReads (xs := [(.hpos, g.hp), (.vpos, g.vp)]) (hys ▸ h)
  have vs := regRead_afterReads (xs := [(.hpos, g.hp), (.vpos, g.vp), (.hsize, g.hs)]) (hys ▸ h)
  simp only [State.afterReads_nil, List.nil_append, List.cons_append] at hp vp hs vs
  unfold readGeometry
  simp only [hp, vp, hs, vs]
  unfold GeometryReads.reads at h ⊢
  cases hgen : s.params.gen with
  | dynamicAddressing => rfl
  | offsetRegisters =>
    rw [hgen] at h
    have xo := regRead_afterReads (ys := [(.voff, g.yo)])
      (xs := [(.hpos, g.hp), (.vpos, g.vp), (.hsize, g.hs), (.vsize, g.vs)]) h
    have yo := regRead_afterReads (ys := [])
      (xs := [(.hpos, g.hp), (.vpos, g.vp), (.hsize, g.hs), (.vsize, g.vs), (.hoff, g.xo)]) h
    simp only [List.nil_append, List.cons_append] at xo yo
    simp only [xo, yo]
    rfl

/-- GEOGET of a configured layer (44_geometry R148). -/
theorem exec_geoget {s : State} {l : BitVec 4} (hl : l.toNat < s.params.nlayers)
    (hv : (s.layer l).valid = true) :
    exec (.geoget l) s = .next ((readGeometry s l (s.layer l)).2.setGeometryResults
      (readGeometry s l (s.layer l)).1).complete := by
  simp only [exec, execGeoget, checkConfigured_ok hl hv, except_ok_bind]
  rfl

/-- GEOGET decodes the words that the policy answers. -/
theorem exec_geoget_of_answers {s : State} {l : BitVec 4} {g : GeometryReads} (hl : l.toNat < s.params.nlayers)
    (hv : (s.layer l).valid = true) (h : Answers s l (g.reads s)) :
    exec (.geoget l) s = .next ((s.afterReads l (g.reads s)).setGeometryResults
      (decodedReads g s.params.gen (s.layer l))).complete := by
  rw [exec_geoget hl hv, readGeometry_of_answers _ h]

theorem decodedFrom_afterReads (s : State) (l : BitVec 4) (g : GeometryReads) :
    DecodedFrom s ((s.afterReads l (g.reads s)).setGeometryResults
      (decodedReads g s.params.gen (s.layer l))).complete l g := by
  refine ⟨?_, ?_, ?_, ?_, ?_, fun hgen => ?_, fun hgen => ?_, ?_, ?_⟩
  · ext1 <;> simp [State.afterReads, statusOk]
  · simp [State.afterReads, decodedReads, decodePosition_eq_ofInt]
  · simp [State.afterReads, decodedReads, decodePosition_eq_ofInt]
  · simp [State.afterReads, decodedReads, decodeSize_eq_ofNat]
  · simp [State.afterReads, decodedReads, decodeSize_eq_ofNat]
  · simp [State.afterReads, decodedReads, hgen]
  · simp [State.afterReads, decodedReads, hgen]
  · simp [State.afterReads]
  · simp [State.afterReads]

end Sys2Proof.Machine

namespace Sys2Proof.Proofs

open Sys2Proof.Machine Sys2Proof.Claims

/-- Settles O57: the words of a GEOSET go to different slots, so each of them stays. -/
theorem regWritesLandInTheirOwnSlots : Obligations.RegWritesLandInTheirOwnSlots := by
  unfold Obligations.RegWritesLandInTheirOwnSlots
  constructor
  · intro s t l h ht
    refine ⟨fun hc x hx => ?_, fun hc => ?_, (geoset_frame h).2.2⟩
    · rw [geoset_hw h ht]
      exact State.regWrites_read_mem hc (nodup_geometryWrites s l) hx
    · rw [geoset_hw h ht]
      exact State.regWrites_hw_oracle hc l _
  · intro s t l c h ht hslot
    rw [regwr_hw h ht hslot]
    exact ⟨fun hc => State.regWrite_read_same hc l c _, fun hc => by simp [State.regWrite, hc],
      fun k hk => State.regWrite_read_other s l c _ hk⟩

/-- Settles O58: each read takes the next answer of the list, so the results are those of the listed words. -/
theorem readsReturnThePolicysAnswers : Obligations.ReadsReturnThePolicysAnswers := by
  unfold Obligations.ReadsReturnThePolicysAnswers
  constructor
  · intro s l g hl hv h
    refine ⟨_, exec_geoget_of_answers hl hv h, decodedFrom_afterReads s l g, ?_, ?_⟩
    · simp [State.afterReads]
    · simp [State.afterReads]
  · exact fun s l c v hl hslot h => exec_regrd_of_answers hl hslot h

end Sys2Proof.Proofs
end

section
/-! SUPPORT. Host programs run symbolically, one lemma for each line of a program, and the transparent colour's
way through SETTRANSP and GETTRANSP. -/

namespace Sys2Proof.Machine

open Sys2Proof.Claims

/-! ### The lines of a host program (30_encoding R71) -/

/-- Two runs, one after the other. -/
theorem run_trans {m n : Nat} {s t u : State} (h1 : Host.Core.run core m s = .next t)
    (h2 : Host.Core.run core n t = .next u) : Host.Core.run core (m + n) s = .next u := by
  induction m generalizing s with
  | zero => obtain rfl := next_inj h1; rwa [Nat.zero_add]
  | succ m ih =>
    rw [Nat.succ_add]
    simp only [Host.Core.run] at h1 ⊢
    cases hs : core.step s with
    | next v => rw [hs] at h1; exact ih h1
    | fault r => rw [hs] at h1; cases h1
    | refused r => rw [hs] at h1; cases h1

theorem run_one {s t : State} (h : step s = .next t) : Host.Core.run core 1 s = .next t :=
  (run_succ h 0).trans (run_zero t)

section
variable {s : State} {rest : List HostAction}

/-- `WR Ai, v` stores the operand. -/
theorem run_wr {i : Fin 8} {v : Word} (h : s.pending = wr i v :: rest) :
    Host.Core.run core 1 s = .next { s with pending := rest, a := s.a.set i v } := by
  refine run_one ?_
  rw [step_write h (by unfold operandOffset; omega) (by unfold operandOffset; omega), operandOffset,
    hostRegAt_operand]
  rfl

/-- `MOV Ai, Rj` copies the result to the operand, by way of the host. -/
theorem run_mov {i j : Fin 8} (h : s.pending = mov i j ++ rest) :
    Host.Core.run core 2 s =
      .next { s with pending := rest, readData := s.r[j], a := s.a.set i s.r[j] } := by
  have hread : step s =
      .next { s with pending := .writeBack 32 (operandOffset i) :: rest, readData := s.r[j] } := by
    rw [step_read h (by unfold resultOffset; omega) (by unfold resultOffset; omega), resultOffset,
      hostRegAt_result]
    rfl
  refine run_trans (run_one hread) (run_one ?_)
  rw [step_writeBack rfl (by unfold operandOffset; omega) (by unfold operandOffset; omega), operandOffset,
    hostRegAt_operand]
  rfl

/-- A line with a mnemonic runs the operation. -/
theorem run_issue {i : Instr} {t : State} (h : s.pending = cmd i :: rest) (hwf : i.wf s.params.nlayers = true)
    (ht : exec i ((s.setPending rest).setCmd (encode i)) = .next t) : Host.Core.run core 1 s = .next t := by
  refine run_one ?_
  have hdecode : decode (s.setPending rest).params.nlayers (encode i) = .ok i := decode_encode hwf
  rw [step_command h, runCommand_ok hdecode, ht]

end

/-! ### The operations that the colour passes -/

/-- PXENC of a legal format (43_pixel_codec R122). -/
theorem exec_pxenc {s : State} {f : BitVec 5} (hf : f.toNat < 24) :
    exec (.pxenc f) s =
      .next (s.setResult 0 (encodeWord s.params s.params.catalog[f.toNat] s.channelOperands)).complete := by
  simp only [exec, execPxenc, checkFormat_ok hf, except_ok_bind]
  rfl

/-- PXDEC of a legal format (43_pixel_codec R123). -/
theorem exec_pxdec {s : State} {f : BitVec 5} (hf : f.toNat < 24) :
    exec (.pxdec f) s = .next (s
      |>.setResult 0 (toWord (unpack s.params.catalog[f.toNat] (s.operand 0).toNat).c0)
      |>.setResult 1 (toWord (unpack s.params.catalog[f.toNat] (s.operand 0).toNat).c1)
      |>.setResult 2 (toWord (unpack s.params.catalog[f.toNat] (s.operand 0).toNat).c2)
      |>.setResult 3 (toWord (unpack s.params.catalog[f.toNat] (s.operand 0).toNat).c3)).complete := by
  simp only [exec, execPxdec, checkFormat_ok hf, except_ok_bind]
  rfl

/-- REGWR of an existing layer's slot writes that slot (45_regaccess R162). -/
theorem exec_regwr {s : State} {l : BitVec 4} {c : Slot} (hl : l.toNat < s.params.nlayers)
    (hc : s.a[0].toNat = c.number) : exec (.regwr l) s = .next (s.regWrite l c s.a[1]).complete := by
  have hslot : checkSlot (s.operand 0) = .ok c := checkSlot_ok hc
  simp only [exec, execRegwr, checkLayer_ok hl, hslot, except_ok_bind]
  rfl

theorem toWord_number_toNat (c : Slot) : (toWord c.number).toNat = c.number := by cases c <;> rfl

theorem slot_of_operand {s : State} {c : Slot} (h : s.a[0] = toWord c.number) : s.a[0].toNat = c.number := by
  rw [h, toWord_number_toNat]

theorem wf_of_layer {n : Nat} {l : BitVec 4} {i : Instr} (hi : i.layer? = some l) (hl : l.toNat < n) :
    i.wf n = true := by
  simp [Instr.wf, hi, hl]

/-! ### The conversion, the stored word and what is read back (43_pixel_codec R125, R126) -/

theorem clamp8_toNat (q : Int) : (clamp8 q).toNat = sat8 q := by
  have hle := sat8_le q
  rw [clamp8, ← toWord_sat8]
  exact toWord_toNat_of_lt (by omega)

theorem fwdInForce_eq (p : Params) : fwdInForce p = fwdOf p := by
  unfold fwdInForce fwdOf
  cases p.profile <;> rfl

/-- The channels after the conversion step, by the spec's formula and by the machine's. -/
theorem prepared_eq (p : Params) (F : PixelFormat) (c : Channels) :
    prepared p F c.c0 c.c1 c.c2 c.c3 =
      ((prepare p F c).c0, (prepare p F c).c1, (prepare p F c).c2, (prepare p F c).c3) := by
  unfold prepared prepare
  cases F.conv with
  | false => rfl
  | true =>
    simp only [if_true, clamp8_toNat, fwdInForce_eq]
    rfl

/-- Decoding the stored word truncates each channel to its field (R126). -/
theorem unpack_encodeWord {F : PixelFormat} (hF : formatWf F = true) (p : Params) (c : Channels) :
    unpack F (encodeWord p F c).toNat =
      ⟨(prepare p F c).c0 % 2 ^ F.ch0.length, (prepare p F c).c1 % 2 ^ F.ch1.length,
        (prepare p F c).c2 % 2 ^ F.ch2.length, (prepare p F c).c3 % 2 ^ F.ch3.length⟩ := by
  rw [encodeWord, toWord_toNat_of_lt (pack_lt hF _), unpack_pack hF]

/-- A decoded channel fits a result register (R121). -/
theorem toWord_unpackField (C : ChannelField) (raw : Word) :
    (toWord (unpackField C raw.toNat)).toNat = unpackField C raw.toNat := by
  have hle : unpackField C raw.toNat ≤ raw.toNat := (Nat.mod_le _ _).trans (Nat.shiftRight_le _ _)
  exact toWord_toNat_of_lt (hle.trans_lt raw.isLt)

/-! ### The parts of SETTRANSP and GETTRANSP (30_encoding R72) -/

section
variable {s : State} {l : BitVec 4} {f : BitVec 5} {c : Slot} {v : Word} {rest : List HostAction}

/-- The host writes four channels and encodes them. -/
theorem run_encode {c0 c1 c2 c3 : Word}
    (hp : s.pending = wr 0 c0 :: wr 1 c1 :: wr 2 c2 :: wr 3 c3 :: cmd (.pxenc f) :: rest) (hf : f.toNat < 24) :
    ∃ t, Host.Core.run core 5 s = .next t ∧ t.pending = rest ∧ t.params = s.params ∧
      t.r[0] = encodeWord s.params s.params.catalog[f.toNat] ⟨c0.toNat, c1.toNat, c2.toNat, c3.toNat⟩ := by
  have hwrites : Host.Core.run core 4 s = .next { s with
      pending := cmd (.pxenc f) :: rest
      a := (((s.a.set 0 c0).set 1 c1).set 2 c2).set 3 c3 } :=
    run_trans (run_trans (run_trans (run_wr hp) (run_wr rfl)) (run_wr rfl)) (run_wr rfl)
  refine ⟨_, run_trans hwrites (run_issue rfl rfl (exec_pxenc hf)), rfl, rfl, ?_⟩
  simp [State.channelOperands, State.operand]

/-- The host sends `R0` to a slot of the layer. -/
theorem run_store (hp : s.pending = wr 0 (toWord c.number) :: mov 1 0 ++ cmd (.regwr l) :: rest)
    (hl : l.toNat < s.params.nlayers) (hc : s.params.collab = .shadow) :
    ∃ t, Host.Core.run core 4 s = .next t ∧ t.pending = rest ∧ t.params = s.params ∧
      t.hw.read (slotKey l c) = some s.r[0] := by
  have hoperands : Host.Core.run core 3 s = .next { s with
      pending := cmd (.regwr l) :: rest
      readData := s.r[0]
      a := (s.a.set 0 (toWord c.number)).set 1 s.r[0] } := run_trans (run_wr hp) (run_mov rfl)
  refine ⟨_, run_trans hoperands (run_issue rfl (wf_of_layer rfl hl)
    (exec_regwr (c := c) hl (slot_of_operand (by simp)))), rfl, rfl, ?_⟩
  refine (State.regWrite_read_same hc l c _).trans ?_
  simp

/-- The host fetches a slot of the layer to `A0`. -/
theorem run_fetch (hp : s.pending = wr 0 (toWord c.number) :: cmd (.regrd l) :: mov 0 0 ++ rest)
    (hl : l.toNat < s.params.nlayers) (h : Answers s l [(c, v)]) :
    ∃ t, Host.Core.run core 4 s = .next t ∧ t.pending = rest ∧ t.params = s.params ∧ t.a[0] = v := by
  have hread := run_trans (run_wr hp) (run_issue rfl (wf_of_layer rfl hl)
    (exec_regrd_of_answers (c := c) (v := v) hl (slot_of_operand (by simp)) h))
  refine ⟨_, run_trans hread (run_mov rfl), rfl, rfl, ?_⟩
  simp

/-- The host decodes the word in `A0`. -/
theorem run_decode (hp : s.pending = cmd (.pxdec f) :: rest) (hf : f.toNat < 24) :
    ∃ t, Host.Core.run core 1 s = .next t ∧ t.pending = rest ∧ t.status = 0 ∧
      channelResults t = ((unpack s.params.catalog[f.toNat] s.a[0].toNat).c0,
        (unpack s.params.catalog[f.toNat] s.a[0].toNat).c1, (unpack s.params.catalog[f.toNat] s.a[0].toNat).c2,
        (unpack s.params.catalog[f.toNat] s.a[0].toNat).c3) := by
  refine ⟨_, run_issue hp rfl (exec_pxdec hf), rfl, rfl, ?_⟩
  simp [channelResults, State.operand, unpack, toWord_unpackField, -toWord_toNat]

end

end Sys2Proof.Machine

namespace Sys2Proof.Proofs

open Sys2Proof.Machine Sys2Proof.Claims

/-- Settles O54: SETTRANSP stores the encoded word, GETTRANSP decodes it. -/
theorem transparentColourSurvivesTheRoundTrip : Obligations.TransparentColourSurvivesTheRoundTrip := by
  unfold Obligations.TransparentColourSurvivesTheRoundTrip
  intro s l f c0 c1 c2 c3 rest hf hp hl hc hwf F
  have hF : formatWf s.params.catalog[f.toNat] = true := formatWf_of_paramsWf hwf ⟨f.toNat, hf⟩
  obtain ⟨t1, h1, hp1, hpar1, hr1⟩ := run_encode hp hf
  obtain ⟨t2, h2, hp2, hpar2, hread⟩ := run_store (c := .transp) hp1 (hpar1 ▸ hl) (hpar1 ▸ hc)
  have hpar2 : t2.params = s.params := hpar2.trans hpar1
  obtain ⟨t3, h3, hp3, hpar3, ha⟩ :=
    run_fetch (c := .transp) hp2 (hpar2 ▸ hl) (.inl ⟨hpar2 ▸ hc, by simpa using hread⟩)
  have hpar3 : t3.params = s.params := hpar3.trans hpar2
  obtain ⟨t, ht, hpt, hst, hres⟩ := run_decode hp3 hf
  refine ⟨t, run_trans (run_trans (run_trans h1 h2) h3) ht, hpt, hst, hres.trans ?_⟩
  simp only [hpar3, ha, hr1, unpack_encodeWord hF]
  exact congrArg (fitted F) (prepared_eq s.params F ⟨c0.toNat, c1.toNat, c2.toNat, c3.toNat⟩).symm

end Sys2Proof.Proofs
end

section
/-! SUPPORT. The command word as an encoding: which words decode, to what, and that the rows of the opcode map
are disjoint. -/

namespace Sys2Proof

open Sys2Proof.Claims

/-- The command word of an operation whose layer the block does not have (30_encoding R62). -/
theorem decode_encode_absent {n : Nat} {i : Instr} (h : i.wf n = false) :
    decode n (encode i) = .error .layerOutOfRange := by
  simp [decode, selectRow_encode, h]

/-- A word that decodes is the operation's command word, and the block has the operation. -/
theorem encode_of_decode {n : Nat} {w : Word} {i : Instr} (h : decode n w = .ok i) :
    encode i = w ∧ i.wf n = true := by
  obtain ⟨hsel, hwf⟩ := decode_ok h
  exact ⟨encode_of_selectRow hsel, hwf⟩

/-- A word that matches no row, or names an absent layer, does not decode (30_encoding R63). -/
theorem decode_error_of_illegal {n : Nat} {w : Word} (h : ¬ MatchesRow w ∨ LayerOutOfRange n w) :
    ∃ e, decode n w = .error e := by
  cases hd : decode n w with
  | error e => exact ⟨e, rfl⟩
  | ok i =>
    obtain ⟨rfl, hwf⟩ := encode_of_decode hd
    rcases h with hm | hl
    · exact absurd (matchesRow_encode i) hm
    · rw [layerOutOfRange_encode, hwf] at hl
      cases hl

/-- A row whose mask covers the opcode selects words of its own opcode only (30_encoding R61). -/
theorem opField_of_selects {row : OpcodeRow} {w : Word} (hm : opField row.mask = BitVec.allOnes 8)
    (h : row.selects w = true) : opField w = opField row.pattern := by
  rw [OpcodeRow.selects, beq_iff_eq] at h
  rw [← h, (fields_and w row.mask).1, hm, BitVec.and_allOnes]

theorem opcodeTable_masks : ∀ row ∈ opcodeTable, opField row.mask = BitVec.allOnes 8 := by decide

theorem opcodeTable_opcodes_distinct :
    opcodeTable.Pairwise fun p q => opField p.pattern ≠ opField q.pattern := by decide

end Sys2Proof

namespace Sys2Proof.Proofs

open Sys2Proof.Machine Sys2Proof.Claims

/-- Settles O5: the table finds the row of every command word, and a row selects no other word. -/
theorem decodeAndEncodeAgree : Obligations.DecodeAndEncodeAgree := by
  unfold Obligations.DecodeAndEncodeAgree
  exact ⟨fun _ _ => decode_encode, fun _ _ => decode_encode_absent, fun _ _ _ => encode_of_decode⟩

/-- Settles O4: such a word does not decode, and a word that does not decode is such a word. -/
theorem illegalWordDoesNothingButRaise : Obligations.IllegalWordDoesNothingButRaise := by
  unfold Obligations.IllegalWordDoesNothingButRaise
  intro s w rest hp
  constructor
  · intro h
    obtain ⟨e, he⟩ := decode_error_of_illegal h
    exact (step_command hp).trans (runCommand_error he)
  · rintro ⟨hm, hl⟩
    cases hd : decode s.params.nlayers w with
    | ok i => exact ⟨i, rfl, (encode_of_decode hd).1⟩
    | error e => exact absurd (illegal_of_decode_error hd) (not_or.2 ⟨not_not.2 hm, hl⟩)

/-- Settles O6: every row fixes the opcode, and no two rows fix the same one. -/
theorem opcodeRowsNeverOverlap : Obligations.OpcodeRowsNeverOverlap := by
  unfold Obligations.OpcodeRowsNeverOverlap
  refine opcodeTable_opcodes_distinct.imp_of_mem fun {p q} hp hq hne w ⟨hsp, hsq⟩ => hne ?_
  calc opField p.pattern = opField w := (opField_of_selects (opcodeTable_masks p hp) hsp).symm
    _ = opField q.pattern := opField_of_selects (opcodeTable_masks q hq) hsq

/-- Settles O7. -/
theorem sampleWordsDecode : Obligations.SampleWordsDecode := by
  unfold Obligations.SampleWordsDecode
  decide

end Sys2Proof.Proofs
end

section
/-! SUPPORT. The ends of an operation without an effect: the seven operations that only write results, and a
layer operation on a layer that the block does not have. -/

namespace Sys2Proof.Machine

open Sys2Proof.Claims

/-- An operation that is pure has no effect but its results. -/
theorem Effect.eq_of_isPure {i : Instr} {s u : State} (hi : IsPure i) (h : Effect s i u) : u = s := by
  cases h with
  | pure _ => rfl
  | lcfg | clutenc | geoset | geoget | regrd | regwr => exact hi.elim

/-- A layer operation checks the layer before anything else (60_exceptions R172 step 2). -/
theorem exec_absent_layer {s : State} {l : BitVec 4} {i : Instr} (hi : i.layer? = some l)
    (h : s.params.nlayers ≤ l.toNat) : exec i s = .next (s.raise .illegalCommand) := by
  cases i with
  | fmtres | rgb2yuv | yuv2rgb | alpha2hw | hw2alpha | pxenc | pxdec | clutenc => cases hi
  | lcfg l' | regrd l' | regwr l' =>
    obtain rfl := Option.some.inj hi
    simp only [exec, execLcfg, execRegrd, execRegwr, checkLayer_error h, except_error_bind, finish_error]
  | geoset l' | geoget l' =>
    obtain rfl := Option.some.inj hi
    simp only [exec, execGeoset, execGeoget, checkConfigured_error_layer h, except_error_bind, finish_error]

end Sys2Proof.Machine

namespace Sys2Proof.Proofs

open Sys2Proof.Machine Sys2Proof.Claims

/-- Settles O16: an error writes `STATUS` only, and a success adds results to an effect that is none. -/
theorem pureOperationsTouchOnlyResultsAndStatus : Obligations.PureOperationsTouchOnlyResultsAndStatus := by
  unfold Obligations.PureOperationsTouchOnlyResultsAndStatus
  intro i s t hi h
  rcases exec_cases h with ⟨e, rfl⟩ | ⟨u, ws, hu, -, rfl⟩
  · rfl
  · obtain rfl := hu.eq_of_isPure hi
    ext1 <;> simp

/-- Settles O55. -/
theorem absentLayerFailsEveryLayerOperation : Obligations.AbsentLayerFailsEveryLayerOperation := by
  unfold Obligations.AbsentLayerFailsEveryLayerOperation
  intro s l h
  exact ⟨exec_absent_layer rfl h, exec_absent_layer rfl h, exec_absent_layer rfl h, exec_absent_layer rfl h,
    exec_absent_layer rfl h⟩

end Sys2Proof.Proofs
end

section
/-! SUPPORT. The packed word: its channels and its bits outside them, and the spec's formula for it. -/

namespace Sys2Proof.Machine

open Sys2Proof.Claims

theorem channelOf_eq_unpackField (C : ChannelField) (raw : Word) : channelOf C raw = unpackField C raw.toNat := by
  simp [channelOf, unpackField, Nat.shiftRight_eq_div_pow]

theorem pack_eq_packSum (F : PixelFormat) (c : Channels) : pack F c = packSum F c.c0 c.c1 c.c2 c.c3 := by
  simp [pack, packField, packSum, Nat.shiftLeft_eq]

theorem prepare_of_not_conv {F : PixelFormat} (h : F.conv = false) (p : Params) (c : Channels) :
    prepare p F c = c := by
  simp [prepare, h]

/-- The spec's word is the sum of the prepared channels (43_pixel_codec R122, R125). -/
theorem storedWord_eq_prepared (p : Params) (F : PixelFormat) (c0 c1 c2 c3 : Nat) :
    storedWord p F c0 c1 c2 c3 = BitVec.ofNat 32 (packSum F (prepared p F c0 c1 c2 c3).1
      (prepared p F c0 c1 c2 c3).2.1 (prepared p F c0 c1 c2 c3).2.2.1 (prepared p F c0 c1 c2 c3).2.2.2) := by
  unfold storedWord prepared
  cases F.conv <;> rfl

/-- The encoder computes the spec's word (43_pixel_codec R122). -/
theorem encodeWord_eq_storedWord (p : Params) (F : PixelFormat) (c : Channels) :
    encodeWord p F c = storedWord p F c.c0 c.c1 c.c2 c.c3 := by
  rw [storedWord_eq_prepared, prepared_eq, encodeWord, pack_eq_packSum]
  rfl

/-- The result of an operation whose last effect is `R0`. -/
theorem State.result_of_setResult_complete (s : State) (v : Word) :
    (s.setResult 0 v).complete.r[0] = v := by
  simp

/-- A bit outside the fields of the row is 0 in the encoded word (30_encoding R69). -/
theorem encodeWord_getLsbD_outside {F : PixelFormat} (hF : formatWf F = true) (p : Params) (c : Channels) {j : Nat}
    (hj : OutsideFields F j) : (encodeWord p F c).getLsbD j = false := by
  rw [encodeWord, BitVec.getLsbD, toWord_toNat_of_lt (pack_lt hF _)]
  exact testBit_pack_outside hF _ hj

end Sys2Proof.Machine

namespace Sys2Proof.Proofs

open Sys2Proof.Machine Sys2Proof.Claims

/-- Settles O28: decoding the encoded word truncates each operand, and packing fills no other bit. -/
theorem packedWordHoldsEveryChannel : Obligations.PackedWordHoldsEveryChannel := by
  unfold Obligations.PackedWordHoldsEveryChannel
  intro s f h hp hconv
  have hF : formatWf s.params.catalog[f.toNat] = true := formatWf_of_paramsWf hp ⟨f.toNat, h⟩
  have hunpack := unpack_encodeWord hF s.params s.channelOperands
  rw [prepare_of_not_conv hconv] at hunpack
  simp only [unpack, Channels.mk.injEq, ← channelOf_eq_unpackField] at hunpack
  obtain ⟨h0, h1, h2, h3⟩ := hunpack
  refine ⟨_, exec_pxenc h, ?_⟩
  rw [State.result_of_setResult_complete]
  exact ⟨h0, h1, h2, h3, fun j hj => encodeWord_getLsbD_outside hF _ _ hj⟩

end Sys2Proof.Proofs
end

section
/-! SUPPORT. The two alpha operations, and the host sequences SETALPHA and GETALPHA as runs of their parts. -/

namespace Sys2Proof.Machine

open Sys2Proof.Claims

/-! ### The alpha operations (42_alpha R113, R114) -/

section
variable {s : State} {f : BitVec 5} {F : PixelFormat} {e : ErrorKind}

theorem exec_alpha2hw (h : checkLayerAlpha s f = .ok F) : exec (.alpha2hw f) s =
    .next (s.setResult 0 (toWord (toHw (bits 9 0 s.a[0]) F.alphaBits))).complete := by
  simp only [exec, execAlpha2hw, h, except_ok_bind]
  rfl

theorem exec_alpha2hw_error (h : checkLayerAlpha s f = .error e) :
    exec (.alpha2hw f) s = .next (s.raise e) := by
  simp only [exec, execAlpha2hw, h, except_error_bind, finish_error]

theorem exec_hw2alpha (h : checkLayerAlpha s f = .ok F) : exec (.hw2alpha f) s =
    .next (s.setResult 0 (toWord (fromHw (lowBits F.alphaBits s.a[0]) F.alphaBits))).complete := by
  simp only [exec, execHw2alpha, h, except_ok_bind]
  rfl

theorem exec_hw2alpha_error (h : checkLayerAlpha s f = .error e) :
    exec (.hw2alpha f) s = .next (s.raise e) := by
  simp only [exec, execHw2alpha, h, except_error_bind, finish_error]

end

/-- A format that has no layer alpha, or does not exist, fails the check of the alpha unit. -/
theorem checkLayerAlpha_error {s : State} {f : BitVec 5}
    (h : ∀ F ∈ s.params.catalog[f.toNat]?, F.tm ≠ .layer) : ∃ e, checkLayerAlpha s f = .error e := by
  by_cases hf : f.toNat < 24
  · exact ⟨_, checkLayerAlpha_error_mode hf (h _ (by simp [hf]))⟩
  · exact ⟨_, checkLayerAlpha_error_format (Nat.le_of_not_lt hf)⟩

/-- The raw alpha by the spec's formula (42_alpha R111). -/
theorem toWord_toHw (v : Word) (n : Nat) :
    toWord (toHw (bits 9 0 v) n) = BitVec.ofNat 32 (v.toNat % 1024 * (2 ^ n - 1) / 1023) := by
  rw [bits_9_0]
  rfl

/-- The normalised alpha by the spec's formula (42_alpha R112); it fits the register. -/
theorem toWord_fromHw_toNat (v : Word) (n : Nat) : (toWord (fromHw (lowBits n v) n)).toNat =
    min 1023 ((v.toNat % 2 ^ n + 1) * 1023 / 2 ^ n + (if n = 6 then 1 else 0)) := by
  have hle := fromHw_le (lowBits n v) n
  rw [toWord_toNat_of_lt (by omega)]
  simp [fromHw, lowBits, alphaBias, Config.anorm, Nat.shiftRight_eq_div_pow]

/-! ### The parts of the sequences (30_encoding R71, R72) -/

/-- A read answers what the policy promises (20_memory R47). -/
theorem regRead_fst_of_answers {s : State} {l : BitVec 4} {c : Slot} {x : Word} (h : Answers s l [(c, x)]) :
    (s.regRead l c).1 = x := by
  simpa using congrArg Prod.fst (regRead_afterReads (xs := []) h)

section
variable {s : State} {l : BitVec 4} {f : BitVec 5} {c : Slot} {v : Word} {rest : List HostAction}

/-- "if STATUS != 0 stop": the host goes on, or gives up its next actions. -/
theorem run_stopOnError {n : Nat} (h : s.pending = .stopOnError n :: rest) : Host.Core.run core 1 s = .next { s with
    pending := if s.status = 0 then rest else rest.drop n
    readData := s.status } := by
  refine run_one ?_
  simp only [step, stepHost, h]
  rfl

/-- The host scales an alpha that the format has. -/
theorem run_scale {n : Nat} {F : PixelFormat}
    (hp : s.pending = wr 0 v :: cmd (.alpha2hw f) :: .stopOnError n :: rest)
    (hF : checkLayerAlpha s f = .ok F) :
    ∃ t, Host.Core.run core 3 s = .next t ∧ t.pending = rest ∧ t.params = s.params ∧ t.events = s.events ∧
      t.r[0] = toWord (toHw (bits 9 0 v) F.alphaBits) := by
  have hscale := run_trans (run_wr hp) (run_issue rfl rfl (exec_alpha2hw hF))
  refine ⟨_, run_trans hscale (run_stopOnError rfl), rfl, rfl, rfl, ?_⟩
  simp

/-- The host stops at an alpha that the format does not have. -/
theorem run_scale_error {n : Nat} {e : ErrorKind}
    (hp : s.pending = wr 0 v :: cmd (.alpha2hw f) :: .stopOnError n :: rest)
    (he : checkLayerAlpha s f = .error e) :
    ∃ t, Host.Core.run core 3 s = .next t ∧ t.pending = rest.drop n ∧ t.status ≠ 0 ∧ t.events = s.events ∧
      t.hw = s.hw := by
  have hscale := run_trans (run_wr hp) (run_issue rfl rfl (exec_alpha2hw_error he))
  exact ⟨_, run_trans hscale (run_stopOnError rfl), if_neg (statusOf_ne_zero e), statusOf_ne_zero e, rfl, rfl⟩

/-- The host sends `R0` to a slot of the layer by one `RegWrite`. -/
theorem run_send (hp : s.pending = wr 0 (toWord c.number) :: mov 1 0 ++ cmd (.regwr l) :: rest)
    (hl : l.toNat < s.params.nlayers) :
    ∃ t, Host.Core.run core 4 s = .next t ∧ t.pending = rest ∧ t.status = 0 ∧
      t.events = s.events ++ [.regWrite l c s.r[0]] ∧
      (s.params.collab = .shadow → t.hw.read (slotKey l c) = some s.r[0]) := by
  have hoperands : Host.Core.run core 3 s = .next { s with
      pending := cmd (.regwr l) :: rest
      readData := s.r[0]
      a := (s.a.set 0 (toWord c.number)).set 1 s.r[0] } := run_trans (run_wr hp) (run_mov rfl)
  refine ⟨_, run_trans hoperands (run_issue rfl (wf_of_layer rfl hl)
    (exec_regwr (c := c) hl (slot_of_operand (by simp)))), rfl, rfl, ?_, fun hc => ?_⟩
  · simp
  · refine (State.regWrite_read_same hc l c _).trans ?_
    simp

/-- The host reads a slot of the layer to `R0` by one `RegRead`, whatever it answers. -/
theorem run_read (hp : s.pending = wr 0 (toWord c.number) :: cmd (.regrd l) :: rest)
    (hl : l.toNat < s.params.nlayers) :
    ∃ t v, Host.Core.run core 2 s = .next t ∧ t.pending = rest ∧ t.params = s.params ∧ t.hw = s.hw ∧
      t.events = s.events ++ [.regRead l c v] ∧ t.r[0] = v ∧ ∀ x, Answers s l [(c, x)] → v = x := by
  refine ⟨_, _, run_trans (run_wr hp) (run_issue rfl (wf_of_layer rfl hl)
    (exec_regrd (c := c) hl (slot_of_operand (by simp)))), ?_, ?_, ?_, ?_,
    State.result_of_setResult_complete .., fun x h => regRead_fst_of_answers h⟩
  all_goals simp

/-- The host fetches a slot of the layer to `A0`. -/
theorem run_receive (hp : s.pending = wr 0 (toWord c.number) :: cmd (.regrd l) :: mov 0 0 ++ rest)
    (hl : l.toNat < s.params.nlayers) :
    ∃ t v, Host.Core.run core 4 s = .next t ∧ t.pending = rest ∧ t.params = s.params ∧ t.hw = s.hw ∧
      t.events = s.events ++ [.regRead l c v] ∧ t.a[0] = v ∧ t.r[0] = v ∧
      ∀ x, Answers s l [(c, x)] → v = x := by
  obtain ⟨u, v, h1, hpu, hpar, hhw, hev, hr, hanswer⟩ := run_read hp hl
  refine ⟨_, v, run_trans h1 (run_mov hpu), rfl, hpar, hhw, hev, ?_, hr, hanswer⟩
  simpa using hr

/-- The host scales the word in `A0` back, or learns that the format has no layer alpha. -/
theorem run_rescale (hp : s.pending = cmd (.hw2alpha f) :: rest) :
    ∃ t, Host.Core.run core 1 s = .next t ∧ t.pending = rest ∧ t.hw = s.hw ∧ t.events = s.events ∧
      (∀ F, checkLayerAlpha s f = .ok F →
        t.status = 0 ∧ t.r[0] = toWord (fromHw (lowBits F.alphaBits s.a[0]) F.alphaBits)) ∧
      ∀ e, checkLayerAlpha s f = .error e → t.status = statusOf e ∧ t.r[0] = s.r[0] := by
  cases hc : checkLayerAlpha s f with
  | ok F =>
    refine ⟨_, run_issue hp rfl (exec_hw2alpha hc), rfl, rfl, rfl, ?_, fun e he => nomatch he⟩
    rintro _ ⟨⟩
    exact ⟨rfl, State.result_of_setResult_complete ..⟩
  | error e =>
    refine ⟨_, run_issue hp rfl (exec_hw2alpha_error hc), rfl, rfl, rfl, fun F hF => (nomatch hF), ?_⟩
    rintro _ ⟨⟩
    exact ⟨rfl, rfl⟩

end

end Sys2Proof.Machine

namespace Sys2Proof.Proofs

open Sys2Proof.Machine Sys2Proof.Claims

/-- Settles O51: the scaled alpha is sent on, and the stop drops exactly the four actions that would send it. -/
theorem setAlphaWritesTheRawAlphaOrStops : Obligations.SetAlphaWritesTheRawAlphaOrStops := by
  unfold Obligations.SetAlphaWritesTheRawAlphaOrStops
  intro s l f alpha rest hp hl
  constructor
  · intro hf hlayer
    obtain ⟨t1, h1, hp1, hpar1, hev1, hr1⟩ := run_scale hp (checkLayerAlpha_ok hf hlayer)
    obtain ⟨t, h2, hpt, hst, hev, hread⟩ := run_send (c := .alpha) hp1 (hpar1 ▸ hl)
    rw [hr1, toWord_toHw] at hev hread
    exact ⟨t, _, run_trans h1 h2, hpt, hst, rfl, hev1 ▸ hev, hpar1 ▸ hread⟩
  · intro hno
    obtain ⟨e, he⟩ := checkLayerAlpha_error hno
    exact run_scale_error hp he

/-- Settles O52: one read, then the check and the scaling of HW2ALPHA on the word read. -/
theorem getAlphaReturnsTheNormalisedAlpha : Obligations.GetAlphaReturnsTheNormalisedAlpha := by
  unfold Obligations.GetAlphaReturnsTheNormalisedAlpha
  intro s l f rest hp hl
  obtain ⟨u, v, h1, hp1, hpar, hhw1, hev1, ha, hr, hanswer⟩ := run_receive (c := .alpha) hp hl
  obtain ⟨t, h2, hpt, hhw, hev, hok, herr⟩ := run_rescale hp1
  rw [ha] at hok
  rw [hr] at herr
  refine ⟨t, v, run_trans h1 h2, hpt, hhw.trans hhw1, hev.trans hev1, hanswer, ?_, ?_, ?_⟩
  · intro hf hlayer
    rw [← hpar] at hlayer ⊢
    obtain ⟨hst, hres⟩ := hok _ (checkLayerAlpha_ok hf hlayer)
    exact ⟨hst, hres ▸ toWord_fromHw_toNat v _⟩
  · intro hf hmode
    rw [← hpar] at hmode
    exact herr _ (checkLayerAlpha_error_mode hf hmode)
  · exact fun hf => herr _ (checkLayerAlpha_error_format hf)

end Sys2Proof.Proofs
end

section
/-! SUPPORT. CLUTENC by its cases, and the host sequence SETCLUT: the entry writes fill `EBUF` from the front,
the CLUTENC encodes them. -/

namespace Sys2Proof.Machine

open Sys2Proof.Claims

/-! ### CLUTENC (43_pixel_codec R124) -/

section
variable {s : State} {f : BitVec 5}

theorem exec_clutenc (hf : f.toNat < 24) (hr : s.a[0].toNat + s.a[1].toNat ≤ 256) : exec (.clutenc f) s =
    .next (s.setClut (clutFill s.params s.params.catalog[f.toNat] s.ebuf s.a[0].toNat s.a[1].toNat
      s.cbuf)).complete := by
  have hrange : checkRange (s.operand 0).toNat (s.operand 1).toNat = .ok () := checkRange_ok hr
  simp only [exec, execClutenc, checkFormat_ok hf, hrange, except_ok_bind]
  rfl

theorem exec_clutenc_error_format (hf : 24 ≤ f.toNat) :
    exec (.clutenc f) s = .next (s.raise .unsupportedFormat) := by
  simp only [exec, execClutenc, checkFormat_error hf, except_error_bind, finish_error]

theorem exec_clutenc_error_range (hf : f.toNat < 24) (hr : s.a[0].toNat + s.a[1].toNat > 256) :
    exec (.clutenc f) s = .next (s.raise .indexOutOfRange) := by
  have hrange : checkRange (s.operand 0).toNat (s.operand 1).toNat = .error .indexOutOfRange :=
    checkRange_error hr
  simp only [exec, execClutenc, checkFormat_ok hf, hrange, except_ok_bind, except_error_bind, finish_error]

end

/-- A logical CLUT entry is stored as the spec's word of its four bytes (30_encoding R67). -/
theorem encodeWord_entryChannels (p : Params) (F : PixelFormat) (e : Word) :
    encodeWord p F (entryChannels e) = storedWord p F (e.toNat / 2 ^ 24) (e.toNat / 2 ^ 16 % 256)
      (e.toNat / 2 ^ 8 % 256) (e.toNat % 256) := by
  simp only [encodeWord_eq_storedWord, entryChannels, bits_31_24, bits_23_16, bits_15_8, bits_7_0]

section
variable (p : Params) (F : PixelFormat) (ebuf cbuf : Vector Word 256) {start n : Nat}

/-- The batch puts the word of entry `i` at index `start + i`. -/
theorem clutFill_inside (hn : start + n ≤ 256) {i : Nat} (hi : i < n) {j : Fin 256} (hj : j.val = start + i) :
    (clutFill p F ebuf start n cbuf)[j] = encodeWord p F (entryChannels (ebuf[i]'(by omega))) := by
  rw [clutFill_get p F ebuf start n cbuf hn j, dif_pos (by omega)]
  simp only [hj, Nat.add_sub_cancel_left]

/-- The batch leaves the words outside the range. -/
theorem clutFill_outside (hn : start + n ≤ 256) {j : Fin 256} (hj : j.val < start ∨ start + n ≤ j.val) :
    (clutFill p F ebuf start n cbuf)[j] = cbuf[j] := by
  rw [clutFill_get p F ebuf start n cbuf hn j, dif_neg (by omega)]

end

/-! ### The entry writes (30_encoding R72) -/

/-- A buffer with a list of entries written from an index on, as `wrEntries` writes them. -/
def entriesWritten (b : Vector Word 256) : Nat → List Word → Vector Word 256
  | _, [] => b
  | i, e :: es => entriesWritten (b.setIfInBounds i e) (i + 1) es

/-- The words before the first index stay. -/
theorem entriesWritten_before (b : Vector Word 256) {i k : Nat} (es : List Word) (hk : k < 256) (h : k < i) :
    (entriesWritten b i es)[k] = b[k] := by
  induction es generalizing b i with
  | nil => rfl
  | cons e es ih =>
    exact (ih (b.setIfInBounds i e) (Nat.lt_succ_of_lt h)).trans (Vector.getElem_setIfInBounds_ne hk (by omega))

/-- Each entry stands at its own index. -/
theorem entriesWritten_getElem (b : Vector Word 256) {i k : Nat} {es : List Word} (hk : k < es.length)
    (h : i + k < 256) : (entriesWritten b i es)[i + k] = es[k] := by
  induction es generalizing b i k with
  | nil => cases hk
  | cons e es ih =>
    cases k with
    | zero =>
      exact (entriesWritten_before (b.setIfInBounds i e) es h (Nat.lt_succ_self i)).trans
        (Vector.getElem_setIfInBounds_self h)
    | succ k =>
      have hnext := ih (b.setIfInBounds i e) (i := i + 1) (Nat.lt_of_succ_lt_succ hk) (by omega)
      simpa only [entriesWritten, List.getElem_cons_succ, Nat.add_right_comm i 1 k, Nat.add_assoc] using hnext

section
variable {s : State} {rest : List HostAction}

/-- `WR EBUF[i], e` stores the entry. -/
theorem run_wrEntry {i : Nat} {e : Word} (h : s.pending = .write 32 (0x400 + 4 * i) e :: rest) (hi : i < 256) :
    Host.Core.run core 1 s = .next { s with pending := rest, ebuf := s.ebuf.setIfInBounds i e } := by
  refine run_one ?_
  rw [step_write h (by omega) (by omega), hostRegAt_entry ⟨i, hi⟩]
  have hset : s.ebuf.setIfInBounds i e = s.ebuf.set i e hi := by
    ext1 k hk
    rw [Vector.getElem_setIfInBounds, Vector.getElem_set]
  rw [hset]
  rfl

/-- The entry writes fill the buffer. -/
theorem run_wrEntries {i : Nat} {es : List Word} (h : s.pending = wrEntries i es ++ rest)
    (hi : i + es.length ≤ 256) : Host.Core.run core es.length s =
      .next { s with pending := rest, ebuf := entriesWritten s.ebuf i es } := by
  induction es generalizing s i with
  | nil =>
    obtain rfl : s.pending = rest := h
    exact run_zero s
  | cons e es ih =>
    rw [List.length_cons] at hi ⊢
    rw [Nat.add_comm]
    exact run_trans (run_wrEntry h (by omega)) (ih rfl (by omega))

/-- SETCLUT up to the CLUTENC: the entries in `EBUF`, the range in `A0` and `A1`. -/
theorem run_setClut_operands {f : BitVec 5} {start : Word} {es : List Word}
    (h : s.pending = setClut f start es ++ rest) (hn : es.length ≤ 256) :
    ∃ t : State, Host.Core.run core (es.length + 2) s = .next t ∧ t.pending = cmd (.clutenc f) :: rest ∧
      t.params = s.params ∧ t.cbuf = s.cbuf ∧ t.a[0] = start ∧ t.a[1].toNat = es.length ∧
      t.ebuf = entriesWritten s.ebuf 0 es := by
  rw [setClut, List.append_assoc] at h
  have hwrites := run_trans (run_wrEntries h (by omega)) (run_trans (run_wr rfl) (run_wr rfl))
  refine ⟨_, hwrites, rfl, rfl, rfl, ?_, ?_, rfl⟩
  · simp
  · simpa using hn.trans_lt (by decide : 256 < 2 ^ 32)

end

end Sys2Proof.Machine

namespace Sys2Proof.Proofs

open Sys2Proof.Machine Sys2Proof.Claims

/-- Settles O53: the entries stand in `EBUF` when the CLUTENC runs, which ends in one of its three ways. -/
theorem setClutPopulatesTheEntries : Obligations.SetClutPopulatesTheEntries := by
  unfold Obligations.SetClutPopulatesTheEntries
  intro s f start es rest hp hn
  obtain ⟨u, hu, hpu, hpar, hcbuf, h0, h1, hebuf⟩ := run_setClut_operands hp hn
  have hrun : ∀ {t}, exec (.clutenc f) ((u.setPending rest).setCmd (encode (.clutenc f))) = .next t →
      Host.Core.run core (es.length + 3) s = .next t :=
    fun ht => run_trans (m := es.length + 2) hu (run_issue hpu rfl ht)
  by_cases hf : f.toNat < 24
  · by_cases hr : u.a[0].toNat + u.a[1].toNat ≤ 256
    · refine ⟨_, hrun (exec_clutenc hf hr), rfl, fun h => absurd hf h.not_gt, fun _ h => absurd hr ?_,
        fun _ _ => ⟨rfl, fun j => ⟨fun i hi hj => ?_, fun hj => ?_⟩⟩⟩
      · rw [h0, h1]
        exact h.not_ge
      · refine (clutFill_inside _ _ _ _ hr (i := i) (h1 ▸ hi) (h0 ▸ hj)).trans ?_
        have hentry : u.ebuf[i] = es[i] := by
          simpa [hebuf] using entriesWritten_getElem s.ebuf (i := 0) hi (by omega)
        rw [encodeWord_entryChannels]
        simp only [State.setCmd_params, State.setPending_params, State.setCmd_ebuf, State.setPending_ebuf, hpar,
          hentry]
      · rw [← h0, ← h1] at hj
        exact (clutFill_outside _ _ _ _ hr hj).trans (hcbuf ▸ rfl)
    · refine ⟨_, hrun (exec_clutenc_error_range hf (Nat.lt_of_not_le hr)), rfl, fun h => absurd hf h.not_gt,
        fun _ _ => ⟨rfl, hcbuf⟩, fun _ h => absurd ?_ hr⟩
      rwa [h0, h1]
  · exact ⟨_, hrun (exec_clutenc_error_format (Nat.le_of_not_lt hf)), rfl, fun _ => ⟨rfl, hcbuf⟩,
      fun h => absurd h hf, fun h => absurd h hf⟩

end Sys2Proof.Proofs
end

section
/-! SUPPORT. FMTRES and LCFG by their cases, the descriptor words field by field, and PXDEC after PXENC. -/

namespace Sys2Proof.Machine

open Sys2Proof.Claims

/-! ### The request (40_catalog R83) -/

section
variable {s : State} {id : Fin 24}

/-- A request is answered by the row whose key it names. -/
theorem checkRequest_of_rowMatches (hp : paramsWf s.params = true) (h : RowMatches s.params.catalog[id] s) :
    checkRequest s = .ok id :=
  checkRequest_ok hp ((keyMatches_iff ..).2 h)

theorem checkRequest_of_no_row (h : ∀ id : Fin 24, ¬ RowMatches s.params.catalog[id] s) :
    checkRequest s = .error .unsupportedFormat :=
  checkRequest_error fun id => Bool.eq_false_iff.2 fun hk => h id ((keyMatches_iff ..).1 hk)

/-! ### FMTRES (40_catalog R84) -/

theorem exec_fmtres_error {e : ErrorKind} (h : checkRequest s = .error e) :
    exec .fmtres s = .next (s.raise e) := by
  simp only [exec, execFmtres, h, except_error_bind, finish_error]

/-- FMTRES of a row succeeds with the descriptor in `R0..R6`. -/
theorem exec_fmtres (h : checkRequest s = .ok id) : ∃ t, exec .fmtres s = .next t ∧ t.status = 0 ∧
    t.r[0] = toWord id ∧ t.r[1] = toWord s.params.catalog[id].bpp ∧
    t.r[2] = fieldImage s.params.catalog[id].ch0 ∧ t.r[3] = fieldImage s.params.catalog[id].ch1 ∧
    t.r[4] = fieldImage s.params.catalog[id].ch2 ∧ t.r[5] = fieldImage s.params.catalog[id].ch3 ∧
    t.r[6] = attributesImage s.params.catalog[id] := by
  simp only [exec, execFmtres, h, except_ok_bind]
  refine ⟨_, rfl, rfl, ?_⟩
  simp

/-! ### LCFG of an existing layer (40_catalog R86) -/

/-- The record that LCFG makes from its operands. -/
def State.requestedRecord (s : State) (id : Fin 24) : LayerRecord :=
  configuredRecord id (lowHalf (s.operand 4)) (highHalf (s.operand 4)) (lowHalf (s.operand 5))
    (highHalf (s.operand 5)) (s.operand 6)

/-- The size check of LCFG on its operands. -/
theorem checkSizes_operands (s : State) :
    checkSizes s.params (lowHalf (s.operand 4)) (highHalf (s.operand 4)) (lowHalf (s.operand 5))
      (highHalf (s.operand 5)) = if BadSizes s then .error .invalidSize else .ok () := by
  simp only [checkSizes_eq, lowHalf_toNat, highHalf_toNat]
  rfl

variable {l : BitVec 4}

theorem exec_lcfg_error_request {e : ErrorKind} (hl : l.toNat < s.params.nlayers)
    (h : checkRequest s = .error e) : exec (.lcfg l) s = .next (s.raise e) := by
  simp only [exec, execLcfg, checkLayer_ok hl, h, except_ok_bind, except_error_bind, finish_error]

theorem exec_lcfg_error_sizes (hl : l.toNat < s.params.nlayers) (h : checkRequest s = .ok id)
    (hs : BadSizes s) : exec (.lcfg l) s = .next (s.raise .invalidSize) := by
  simp only [exec, execLcfg, checkLayer_ok hl, h, checkSizes_operands, if_pos hs, except_ok_bind,
    except_error_bind, finish_error]

/-- LCFG of a row with legal sizes succeeds with the requested record, the row in `R0` and `R1`. -/
theorem exec_lcfg (hl : l.toNat < s.params.nlayers) (h : checkRequest s = .ok id) (hs : ¬ BadSizes s) :
    ∃ t, exec (.lcfg l) s = .next t ∧ t.status = 0 ∧ t.layer l = s.requestedRecord id ∧
      t.r[0] = toWord id ∧ t.r[1] = toWord s.params.catalog[id].bpp := by
  simp only [exec, execLcfg, checkLayer_ok hl, h, checkSizes_operands, if_neg hs, except_ok_bind]
  refine ⟨_, rfl, rfl, State.layer_setLayer_same s l _, ?_, ?_⟩
  · simp
  · simp

/-- The sizes of the record are those of the request. -/
theorem requestedRecord_sizes (s : State) (id : Fin 24) :
    (s.requestedRecord id).visw.toNat = reqVisw s ∧ (s.requestedRecord id).vish.toNat = reqVish s ∧
      (s.requestedRecord id).virtw.toNat = reqVirtw s ∧ (s.requestedRecord id).virth.toNat = reqVirth s :=
  ⟨lowHalf_toNat _, highHalf_toNat _, lowHalf_toNat _, highHalf_toNat _⟩

/-- The initial geometry is the whole visible area. -/
theorem requestedRecord_geo (s : State) (id : Fin 24) : (s.requestedRecord id).geo =
    ⟨0, 0, BitVec.ofNat 32 (reqVisw s), BitVec.ofNat 32 (reqVish s), 0, 0⟩ := by
  obtain ⟨hw, hh, -, -⟩ := requestedRecord_sizes s id
  rw [← hw, ← hh, BitVec.ofNat_toNat, BitVec.ofNat_toNat]
  rfl

end

theorem encode_lcfg (l : BitVec 4) : encode (.lcfg l) = layerWord 0x02000000 l := by
  simp [encode, commandWord, layerWord]

/-! ### The descriptor words (30_encoding R68) -/

theorem isFieldImage_fieldImage {c : ChannelField} (h : channelWf c = true) : IsFieldImage (fieldImage c) c := by
  obtain ⟨hsum, hoff, hlen⟩ := fieldImage_toNat h
  simp only [IsFieldImage, hsum]
  omega

theorem isAttributes_attributesImage {F : PixelFormat} (h : formatWf F = true) :
    IsAttributes (attributesImage F) F := by
  obtain ⟨hsum, hcls, hvar, hsw, h422, hconv, htm, halpha, hbytes⟩ := attributesImage_toNat h
  simp only [IsAttributes, hsum]
  omega

/-- A row's number and its depth fit a result register. -/
theorem toWord_id_toNat (id : Fin 24) : (toWord id).toNat = id := toWord_toNat_of_lt (by omega)

theorem toWord_bpp_toNat {F : PixelFormat} (h : formatWf F = true) : (toWord F.bpp).toNat = F.bpp :=
  toWord_toNat_of_lt (bpp_lt h)

/-! ### PXDEC after PXENC (43_pixel_codec R126) -/

/-- PXDEC returns the channels of its operand. -/
theorem exec_pxdec_channelResults {s : State} {f : BitVec 5} (hf : f.toNat < 24) {c : Channels}
    (hc : unpack s.params.catalog[f.toNat] s.a[0].toNat = c) :
    ∃ u, exec (.pxdec f) s = .next u ∧ u.status = 0 ∧ channelResults u = (c.c0, c.c1, c.c2, c.c3) := by
  subst hc
  refine ⟨_, exec_pxdec hf, rfl, ?_⟩
  simp [channelResults, State.operand, unpack, toWord_unpackField, -toWord_toNat]

/-- PXDEC of the word of PXENC returns the prepared channels, each truncated to its field. -/
theorem exec_pxdec_of_exec_pxenc {s t : State} {f : BitVec 5} (hf : f.toNat < 24)
    (hp : paramsWf s.params = true) (h : exec (.pxenc f) s = .next t) :
    ∃ u, exec (.pxdec f) (t.setOperand 0 t.r[0]) = .next u ∧ u.status = 0 ∧
      channelResults u = fitted s.params.catalog[f.toNat]
        (prepared s.params s.params.catalog[f.toNat] s.a[0].toNat s.a[1].toNat s.a[2].toNat s.a[3].toNat) := by
  have hF : formatWf s.params.catalog[f.toNat] = true := formatWf_of_paramsWf hp ⟨f.toNat, hf⟩
  have hpar : t.params = s.params := exec_params h
  have hword : t.r[0] = encodeWord s.params s.params.catalog[f.toNat] s.channelOperands := by
    obtain rfl := next_inj ((exec_pxenc hf).symm.trans h)
    exact State.result_of_setResult_complete s _
  have hround := unpack_encodeWord hF s.params s.channelOperands
  obtain ⟨u, hu, hst, hres⟩ := exec_pxdec_channelResults (s := t.setOperand 0 t.r[0]) hf
    (by simpa [hpar, hword] using hround)
  exact ⟨u, hu, hst, hres.trans (congrArg (fitted _) (prepared_eq s.params _ s.channelOperands).symm)⟩

/-- A saturated value needs no truncation to 8 bits. -/
theorem clamp8_toNat_mod_256 (q : Int) : (clamp8 q).toNat % 256 = (clamp8 q).toNat := by
  rw [clamp8_toNat]
  exact Nat.mod_eq_of_lt (Nat.lt_succ_of_le (sat8_le q))

/-- Row 3 of the default catalog, C8_AYUV8888, has four channels of 8 bits and converts (40_catalog R81). -/
theorem fitted_prepared_ayuv (p : Params) (c0 c1 c2 c3 : Nat) :
    fitted defaultCatalog[3] (prepared p defaultCatalog[3] c0 c1 c2 c3) =
      (c0 % 256, (clamp8 (quotientY (fwdInForce p) (c1 % 256) (c2 % 256) (c3 % 256))).toNat,
        (clamp8 (quotientU (fwdInForce p) (c1 % 256) (c2 % 256) (c3 % 256))).toNat,
        (clamp8 (quotientV (fwdInForce p) (c1 % 256) (c2 % 256) (c3 % 256))).toNat) := by
  have hrow : defaultCatalog[3] = ⟨.yuv, 8, .clutAyuv8888, false, .clutIndexed, 8, 8, ⟨24, 8⟩, ⟨16, 8⟩, ⟨8, 8⟩,
    ⟨0, 8⟩, .ayuv8888, true, false, 0⟩ := rfl
  rw [hrow]
  simp [fitted, prepared, clamp8_toNat_mod_256]

end Sys2Proof.Machine

namespace Sys2Proof.Proofs

open Sys2Proof.Machine Sys2Proof.Claims

/-- Settles O18: the lookup answers the row, and each descriptor word is the image of its fields. -/
theorem fmtresReturnsTheDescriptor : Obligations.FmtresReturnsTheDescriptor := by
  unfold Obligations.FmtresReturnsTheDescriptor
  refine ⟨rfl, fun s hp => ⟨fun hno => exec_fmtres_error (checkRequest_of_no_row hno), fun id hid => ?_⟩⟩
  obtain ⟨t, ht, hst, hnum, hbpp, hch0, hch1, hch2, hch3, hattr⟩ :=
    exec_fmtres (checkRequest_of_rowMatches hp hid)
  have hF := formatWf_of_paramsWf hp id
  obtain ⟨hwf0, hwf1, hwf2, hwf3, -⟩ := formatWf_fields hF
  have hframe := pureOperationsTouchOnlyResultsAndStatus .fmtres s t trivial ht
  rw [hst] at hframe
  refine ⟨t, ht, hframe, ?_⟩
  rw [hnum, hbpp, hch0, hch1, hch2, hch3, hattr]
  exact ⟨toWord_id_toNat id, toWord_bpp_toNat hF, isFieldImage_fieldImage hwf0, isFieldImage_fieldImage hwf1,
    isFieldImage_fieldImage hwf2, isFieldImage_fieldImage hwf3, isAttributes_attributesImage hF,
    unnamedResultsKeepTheirValue .fmtres s t ht 7 (by decide)⟩

/-- Settles O19: the checks in their order, then the record made from the operands. -/
theorem lcfgConfiguresTheLayer : Obligations.LcfgConfiguresTheLayer := by
  unfold Obligations.LcfgConfiguresTheLayer
  intro l
  refine ⟨encode_lcfg l, fun s hp => ⟨fun hl hno => exec_lcfg_error_request hl (checkRequest_of_no_row hno),
    fun id hl hid => exec_lcfg_error_sizes hl (checkRequest_of_rowMatches hp hid), fun id hl hid hs => ?_⟩⟩
  obtain ⟨t, ht, hst, hrec, hnum, hbpp⟩ := exec_lcfg hl (checkRequest_of_rowMatches hp hid) hs
  obtain ⟨hframe, hother⟩ := lcfg_frame ht
  rw [hst] at hframe
  obtain ⟨hvisw, hvish, hvirtw, hvirth⟩ := requestedRecord_sizes s id
  refine ⟨t, ht, hframe, hother, ?_⟩
  rw [hrec, hnum, hbpp]
  refine ⟨rfl, rfl, hvisw, hvish, hvirtw, hvirth, rfl, requestedRecord_geo s id, toWord_id_toNat id,
    toWord_bpp_toNat (formatWf_of_paramsWf hp id),
    fun k hk => unnamedResultsKeepTheirValue (.lcfg l) s t ht k ?_⟩
  have hk2 : k ≠ 0 ∧ k ≠ 1 := by omega
  simpa [writtenResults] using hk2

/-- Settles O56: row 3 converts, and its 8-bit fields hold each saturated value whole. -/
theorem defaultAyuvRowGivesBackTheConvertedColour :
    Obligations.DefaultAyuvRowGivesBackTheConvertedColour := by
  unfold Obligations.DefaultAyuvRowGivesBackTheConvertedColour
  intro s t hp hcat h c r g b
  obtain ⟨u, hu, hst, hres⟩ := exec_pxdec_of_exec_pxenc (by decide) hp h
  have hrow : s.params.catalog[(3 : BitVec 5).toNat] = defaultCatalog[3] := by rw [hcat]; rfl
  rw [hrow, fitted_prepared_ayuv] at hres
  simp only [channelResults, Prod.mk.injEq] at hres
  obtain ⟨h0, h1, h2, h3⟩ := hres
  exact ⟨u, hu, hst, h0, BitVec.eq_of_toNat_eq h1, BitVec.eq_of_toNat_eq h2, BitVec.eq_of_toNat_eq h3⟩

end Sys2Proof.Proofs
end

section
/-! SUPPORT. The two conversions as whole next states, the presets in force, and the forward quotients under the
default presets. -/

namespace Sys2Proof.Machine

open Sys2Proof.Claims

/-! ### The conversions (41_colorspace R102, R105) -/

/-- The whole next state of a conversion: three results and `STATUS` (R106). -/
theorem State.setColour_complete (s : State) (c : Colour) : (s.setColour c).complete = { s with
    status := 0
    r := ((s.r.set 1 (toWord c.p)).set 2 (toWord c.q)).set 3 (toWord c.t) } := rfl

theorem exec_rgb2yuv (s : State) : exec .rgb2yuv s = .next (s.setColour (forward (fwdOf s.params)
    (s.a[1].toNat % 256) (s.a[2].toNat % 256) (s.a[3].toNat % 256))).complete := by
  simp only [← bits_7_0]
  rfl

theorem exec_yuv2rgb (s : State) : exec .yuv2rgb s = .next (s.setColour (reverse (revOf s.params)
    (s.a[1].toNat % 256) (s.a[2].toNat % 256) (s.a[3].toNat % 256))).complete := by
  simp only [← bits_7_0]
  rfl

theorem revInForce_eq (p : Params) : revInForce p = revOf p := by
  unfold revInForce revOf
  cases p.profile <;> rfl

section
variable (c : FwdCoeffs) (r g b : Nat)

theorem forward_p : (forward c r g b).p = sat8 (quotientY c r g b) := rfl
theorem forward_q : (forward c r g b).q = sat8 (quotientU c r g b) := rfl
theorem forward_t : (forward c r g b).t = sat8 (quotientV c r g b) := rfl

end

theorem reverseRow_eq (c : RevCoeffs) (m : RevRow) (y u v : Nat) :
    reverseRow c m y u v = sat8 (quotientRev c m y u v) := rfl

/-- A saturated quotient, as the register value it is stored as. -/
theorem toWord_sat8_eq_clamp8 (q : Int) : toWord (sat8 q) = clamp8 q := toWord_sat8 q

/-! ### The default presets (41_colorspace R101) -/

theorem sat8_cast_of_within {q : Int} (h : 0 ≤ q ∧ q ≤ 255) : (sat8 q : Int) = q := by
  rw [sat8_cast]
  omega

theorem coeff_toInt {v : Int} (h0 : 0 ≤ v) (h : v < 2 ^ 31) : (coeff v).toInt = v :=
  BitVec.toInt_ofInt_eq_self (by decide) (by omega) h

/-- A forward quotient lies between two bounds when its numerator lies between their multiples. -/
theorem tdiv_scale_within {n lo hi : Int} (h0 : 0 ≤ lo) (hlo : lo * 100000 ≤ n) (hhi : n < (hi + 1) * 100000) :
    lo ≤ n.tdiv 100000 ∧ n.tdiv 100000 ≤ hi := by
  rw [Int.tdiv_eq_ediv_of_nonneg (by omega)]
  omega

section
variable {r g b : Nat} (hr : r < 256) (hg : g < 256) (hb : b < 256)
include hr hg hb

/-- The standard preset stays in 0..255 (R101). -/
theorem quotients_defaultFwdStandard_within :
    (0 ≤ quotientY defaultFwdStandard r g b ∧ quotientY defaultFwdStandard r g b ≤ 255) ∧
    (0 ≤ quotientU defaultFwdStandard r g b ∧ quotientU defaultFwdStandard r g b ≤ 255) ∧
    (0 ≤ quotientV defaultFwdStandard r g b ∧ quotientV defaultFwdStandard r g b ≤ 255) := by
  refine ⟨tdiv_scale_within (by decide) ?_ ?_, tdiv_scale_within (by decide) ?_ ?_,
    tdiv_scale_within (by decide) ?_ ?_⟩
  all_goals simp (disch := decide) only [defaultFwdStandard, coeff_toInt]; omega

/-- The ITU-656 preset stays in the studio ranges (R101). -/
theorem quotients_defaultFwdItu656_within :
    (16 ≤ quotientY defaultFwdItu656 r g b ∧ quotientY defaultFwdItu656 r g b ≤ 235) ∧
    (16 ≤ quotientU defaultFwdItu656 r g b ∧ quotientU defaultFwdItu656 r g b ≤ 240) ∧
    (15 ≤ quotientV defaultFwdItu656 r g b ∧ quotientV defaultFwdItu656 r g b ≤ 240) := by
  refine ⟨tdiv_scale_within (by decide) ?_ ?_, tdiv_scale_within (by decide) ?_ ?_,
    tdiv_scale_within (by decide) ?_ ?_⟩
  all_goals simp (disch := decide) only [defaultFwdItu656, coeff_toInt]; omega

end

end Sys2Proof.Machine

namespace Sys2Proof.Proofs

open Sys2Proof.Machine Sys2Proof.Claims

/-- Settles O20: the machine's quotients and presets are the formula's, and saturation is the clamp. -/
theorem rgb2yuvComputesTheForwardFormula : Obligations.Rgb2yuvComputesTheForwardFormula := by
  unfold Obligations.Rgb2yuvComputesTheForwardFormula
  refine ⟨by decide, fun s => ?_⟩
  simp only [exec_rgb2yuv, State.setColour_complete, forward_p, forward_q, forward_t, toWord_sat8_eq_clamp8,
    fwdInForce_eq]

/-- Settles O21: each row of the machine is the affine map, and saturation is the clamp. -/
theorem yuv2rgbComputesTheReverseFormula : Obligations.Yuv2rgbComputesTheReverseFormula := by
  unfold Obligations.Yuv2rgbComputesTheReverseFormula
  refine ⟨by decide, fun s _ => ?_⟩
  simp only [exec_yuv2rgb, State.setColour_complete, reverse, reverseRow_eq, toWord_sat8_eq_clamp8, revInForce_eq]

/-- Settles O22: every quotient of a default preset lies in its range of R101, and the clamp keeps what lies in
0..255. -/
theorem defaultForwardPresetsNeverSaturate : Obligations.DefaultForwardPresetsNeverSaturate := by
  unfold Obligations.DefaultForwardPresetsNeverSaturate
  intro r g b hr hg hb
  obtain ⟨hy, hu, hv⟩ := quotients_defaultFwdStandard_within hr hg hb
  obtain ⟨⟨hy16, hy235⟩, ⟨hu16, hu240⟩, hv15, hv240⟩ := quotients_defaultFwdItu656_within hr hg hb
  rw [forward_p, forward_q, forward_t]
  exact ⟨⟨sat8_cast_of_within hy, sat8_cast_of_within hu, sat8_cast_of_within hv⟩,
    hy16, hy235, hu16, hu240, hv15, hv240⟩

end Sys2Proof.Proofs
end

section
/-! SUPPORT. The scaling of the alpha unit: its end points, the two round trips, and the whole next states. -/

namespace Sys2Proof.Machine

open Sys2Proof.Claims

/-! ### The scaling (42_alpha R111, R112) -/

/-- The normalised alpha with the shift as a quotient and the bias written out. -/
theorem fromHw_eq (r n : Nat) :
    fromHw r n = min 1023 ((r + 1) * 1023 / 2 ^ n + if n = 6 then 1 else 0) := by
  rw [fromHw, Nat.shiftRight_eq_div_pow]
  rfl

/-- The quotient at a width `n` whose steps are `d` wide, since `(r + 1) * 1023 = (r + 1) * d * 2^n - (r + 1)`. -/
theorem normalised_quotient {r n d : Nat} (hd : d * 2 ^ n = 1024) (hr : r < 2 ^ n) :
    (r + 1) * 1023 / 2 ^ n = (r + 1) * d - 1 := by
  have hpos : 0 < (r + 1) * d := Nat.mul_pos r.succ_pos (Nat.pos_of_ne_zero fun h0 => by simp [h0] at hd)
  have htop : ((r + 1) * d - 1 + 1) * 2 ^ n = (r + 1) * 1023 + (r + 1) := by
    calc ((r + 1) * d - 1 + 1) * 2 ^ n = (r + 1) * (d * 2 ^ n) := by rw [Nat.sub_add_cancel hpos, Nat.mul_assoc]
      _ = (r + 1) * 1023 + (r + 1) := by rw [hd, Nat.mul_succ]
  refine Nat.div_eq_of_lt_le ?_ ?_
  · rw [Nat.add_one_mul] at htop
    omega
  · omega

theorem toHw_zero (n : Nat) : toHw 0 n = 0 := by
  simp [toHw]

/-- Full scale goes to the largest raw alpha. -/
theorem toHw_fullScale (n : Nat) : toHw 1023 n = 2 ^ n - 1 :=
  Nat.mul_div_cancel_left _ (by decide)

/-- The largest raw alpha goes to full scale, where the clamp takes the bias away. -/
theorem fromHw_fullScale (n : Nat) : fromHw (2 ^ n - 1) n = 1023 := by
  rw [fromHw_eq, Nat.sub_add_cancel Nat.one_le_two_pow, Nat.mul_div_cancel_left _ (Nat.two_pow_pos n)]
  exact Nat.min_eq_left (Nat.le_add_right _ _)

/-- At the widths of the catalog (40_catalog R82) the normalised alpha is linear in the raw one, up to the clamp. -/
theorem fromHw_of_width {r n : Nat} (hn : n ∈ [3, 6, 8, 10]) (hr : r < 2 ^ n) :
    fromHw r n = min 1023 ((r + 1) * 2 ^ (10 - n) - 1 + if n = 6 then 1 else 0) := by
  have hd : 2 ^ (10 - n) * 2 ^ n = 1024 := by
    simp only [List.mem_cons, List.not_mem_nil, or_false] at hn
    rw [← pow_add, Nat.sub_add_cancel (by omega)]
    rfl
  rw [fromHw_eq, normalised_quotient hd hr]

/-- The normalised alpha of `r` lies in the interval that scales down to `r`. -/
theorem toHw_fromHw {r n : Nat} (hn : n ∈ [3, 6, 8, 10]) (hr : r < 2 ^ n) : toHw (fromHw r n) n = r := by
  rw [fromHw_of_width hn hr, toHw, Config.anorm]
  simp only [List.mem_cons, List.not_mem_nil, or_false] at hn
  rcases hn with rfl | rfl | rfl | rfl
  all_goals
    norm_num at hr ⊢
    omega

/-- The two scalings move a normalised alpha by less than a step of the width, or by a whole one under the bias. -/
theorem fromHw_toHw_within {n e a : Nat} (hn : (n, e) ∈ [(3, 127), (6, 16), (8, 3), (10, 0)]) (ha : a ≤ 1023) :
    fromHw (toHw a n) n ≤ a + e ∧ a ≤ fromHw (toHw a n) n + e := by
  have hr : toHw a n < 2 ^ n := Nat.lt_of_le_pred (Nat.two_pow_pos n) (toHw_le ha)
  have hw : n ∈ [3, 6, 8, 10] := List.mem_map_of_mem (f := Prod.fst) hn
  rw [fromHw_of_width hw hr, toHw, Config.anorm]
  simp only [List.mem_cons, List.not_mem_nil, or_false, Prod.mk.injEq] at hn
  rcases hn with ⟨rfl, rfl⟩ | ⟨rfl, rfl⟩ | ⟨rfl, rfl⟩ | ⟨rfl, rfl⟩
  all_goals
    norm_num
    omega

/-! ### The operations (42_alpha R113, R114) -/

theorem encode_alpha2hw (f : BitVec 5) : encode (.alpha2hw f) = fmtWord 0x18000000 f := by
  simp [encode, commandWord, fmtWord]

theorem encode_hw2alpha (f : BitVec 5) : encode (.hw2alpha f) = fmtWord 0x19000000 f := by
  simp [encode, commandWord, fmtWord]

/-- The whole next state of an operation whose only result is `R0`. -/
theorem State.setResult_zero_complete (s : State) (v : Word) :
    (s.setResult 0 v).complete = { s with status := 0, r := s.r.set 0 v } := rfl

/-- The normalised alpha as the word of the spec's formula (42_alpha R112). -/
theorem toWord_fromHw (v : Word) (n : Nat) : toWord (fromHw (lowBits n v) n) =
    BitVec.ofNat 32 (min 1023 ((v.toNat % 2 ^ n + 1) * 1023 / 2 ^ n + if n = 6 then 1 else 0)) := by
  rw [fromHw_eq]
  rfl

/-- The register that HW2ALPHA writes holds a normalised alpha, so ALPHA2HW ignores no bit of it. -/
theorem bits_toWord_fromHw (r n : Nat) : bits 9 0 (toWord (fromHw r n)) = fromHw r n := by
  have hle := fromHw_le r n
  rw [bits_9_0, toWord_toNat_of_lt (by omega), Nat.mod_eq_of_lt (by omega)]

/-- A raw alpha at a width of the catalog fits the register. -/
theorem toWord_lowBits_toNat (n : Nat) (v : Word) : (toWord (lowBits n v)).toNat = v.toNat % 2 ^ n :=
  toWord_toNat_of_lt (Nat.lt_of_le_of_lt (Nat.mod_le _ _) v.isLt)

/-- ALPHA2HW of the result of HW2ALPHA of the same width gives back the raw alpha. -/
theorem exec_alpha2hw_fromHw {s : State} {f : BitVec 5} {F : PixelFormat} {v : Word}
    (hF : checkLayerAlpha s f = .ok F) (hn : F.alphaBits ∈ [3, 6, 8, 10])
    (ha : s.a[0] = toWord (fromHw (lowBits F.alphaBits v) F.alphaBits)) :
    exec (.alpha2hw f) s = .next (s.setResult 0 (toWord (lowBits F.alphaBits v))).complete := by
  have hr : lowBits F.alphaBits v < 2 ^ F.alphaBits := Nat.mod_lt _ (Nat.two_pow_pos _)
  rw [exec_alpha2hw hF, ha, bits_toWord_fromHw, toHw_fromHw hn hr]

end Sys2Proof.Machine

namespace Sys2Proof.Proofs

open Sys2Proof.Machine Sys2Proof.Claims

/-- Settles O23: the two checks in their order, then the scaling down. -/
theorem alpha2hwScalesDown : Obligations.Alpha2hwScalesDown := by
  unfold Obligations.Alpha2hwScalesDown
  refine fun f => ⟨encode_alpha2hw f, fun s => ⟨fun h => ?_, fun h hmode => ?_, fun h hlayer => ?_⟩⟩
  · exact exec_alpha2hw_error (checkLayerAlpha_error_format h)
  · exact exec_alpha2hw_error (checkLayerAlpha_error_mode h hmode)
  · rw [exec_alpha2hw (checkLayerAlpha_ok h hlayer), toWord_toHw, State.setResult_zero_complete]

/-- Settles O24: the two checks in their order, then the scaling up. -/
theorem hw2alphaScalesUp : Obligations.Hw2alphaScalesUp := by
  unfold Obligations.Hw2alphaScalesUp
  refine fun f => ⟨encode_hw2alpha f, fun s => ⟨fun h => ?_, fun h hmode => ?_, fun h hlayer => ?_⟩⟩
  · exact exec_hw2alpha_error (checkLayerAlpha_error_format h)
  · exact exec_hw2alpha_error (checkLayerAlpha_error_mode h hmode)
  · rw [exec_hw2alpha (checkLayerAlpha_ok h hlayer), toWord_fromHw, State.setResult_zero_complete]

/-- Settles O25: HW2ALPHA leaves the parameters, so ALPHA2HW finds the same width, where scaling down undoes
scaling up. -/
theorem rawAlphaSurvivesTheRoundTrip : Obligations.RawAlphaSurvivesTheRoundTrip := by
  unfold Obligations.RawAlphaSurvivesTheRoundTrip
  intro s t f h hp hlayer ht
  have hF := checkLayerAlpha_ok h hlayer
  have hn := (alphaBits_mem (formatWf_of_paramsWf hp ⟨f.toNat, h⟩)).2 (decide_eq_true hlayer)
  obtain rfl := next_inj ((exec_hw2alpha hF).symm.trans ht)
  refine ⟨_, exec_alpha2hw_fromHw hF hn (v := s.a[0]) ?_, rfl, ?_⟩
  · simp [-toWord_toNat]
  · rw [State.result_of_setResult_complete, toWord_lowBits_toNat]

/-- Settles O26: the end points, the bound at each width, and the monotony of the scaling. -/
theorem normalisedAlphaReturnsWithinBounds : Obligations.NormalisedAlphaReturnsWithinBounds := by
  unfold Obligations.NormalisedAlphaReturnsWithinBounds
  exact fun n e hn => ⟨toHw_zero n, toHw_fullScale n, fromHw_fullScale n,
    fun a ha => fromHw_toHw_within hn ha, fun a b h => toHw_mono n h⟩

end Sys2Proof.Proofs
end

section
/-! SUPPORT. The pixel codec's operations as the spec's equations: the command word of an operation with a format,
the failure of a format that does not exist, and the results by the spec's formulas. -/

namespace Sys2Proof.Machine

open Sys2Proof.Claims

/-- A command word without a layer is its opcode row's pattern with the format in the low bits (30_encoding R61). -/
theorem commandWord_layer_zero (op : BitVec 8) (f : BitVec 5) :
    commandWord op 0 f = fmtWord (op.zeroExtend 32 <<< 24) f := by
  simp [commandWord, fmtWord]

section
variable {s : State} {f : BitVec 5}

theorem exec_pxenc_error_format (hf : 24 ≤ f.toNat) : exec (.pxenc f) s = .next (s.raise .unsupportedFormat) := by
  simp only [exec, execPxenc, checkFormat_error hf, except_error_bind, finish_error]

theorem exec_pxdec_error_format (hf : 24 ≤ f.toNat) : exec (.pxdec f) s = .next (s.raise .unsupportedFormat) := by
  simp only [exec, execPxdec, checkFormat_error hf, except_error_bind, finish_error]

/-- PXDEC leaves each channel of `A0` in the result register of its number (43_pixel_codec R121, R123). -/
theorem exec_pxdec_channelOf (hf : f.toNat < 24) : exec (.pxdec f) s = .next (s
    |>.setResult 0 (toWord (channelOf s.params.catalog[f.toNat].ch0 s.a[0]))
    |>.setResult 1 (toWord (channelOf s.params.catalog[f.toNat].ch1 s.a[0]))
    |>.setResult 2 (toWord (channelOf s.params.catalog[f.toNat].ch2 s.a[0]))
    |>.setResult 3 (toWord (channelOf s.params.catalog[f.toNat].ch3 s.a[0]))).complete := by
  simp only [exec_pxdec hf, unpack, channelOf_eq_unpackField]
  rfl

end

end Sys2Proof.Machine

namespace Sys2Proof.Proofs

open Sys2Proof.Machine Sys2Proof.Claims

/-- Settles O27: the check of the format, then the encoder's word, which is the spec's. -/
theorem pxencPacksTheChannels : Obligations.PxencPacksTheChannels := by
  unfold Obligations.PxencPacksTheChannels
  refine fun f => ⟨commandWord_layer_zero 0x20 f, fun s => ⟨fun h => exec_pxenc_error_format h, fun h => ?_⟩⟩
  rw [exec_pxenc h, encodeWord_eq_storedWord, State.setResult_zero_complete]
  rfl

/-- Settles O29: the check of the format, then the four channels of the operand. -/
theorem pxdecUnpacksTheChannels : Obligations.PxdecUnpacksTheChannels := by
  unfold Obligations.PxdecUnpacksTheChannels
  exact fun f => ⟨commandWord_layer_zero 0x21 f, fun s =>
    ⟨fun h => exec_pxdec_error_format h, fun h => exec_pxdec_channelOf h⟩⟩

/-- Settles O30: the fields of a well-formed row are disjoint, so packing and unpacking undo each other on the
field bits; the operations keep the parameters, so PXDEC finds the row of PXENC. -/
theorem codecRoundTripIsLossless : Obligations.CodecRoundTripIsLossless := by
  unfold Obligations.CodecRoundTripIsLossless
  exact ⟨fun _ _ _ _ _ hF => unpack_pack hF _, fun _ raw hF _ => pack_unpack hF raw,
    fun _ _ _ h hp ht => exec_pxdec_of_exec_pxenc h hp ht⟩

/-- Settles O31: the two checks in their order, then the batch, inside its range and outside it. -/
theorem clutencFillsExactlyTheRange : Obligations.ClutencFillsExactlyTheRange := by
  unfold Obligations.ClutencFillsExactlyTheRange
  refine fun f => ⟨commandWord_layer_zero 0x22 f, fun s => ⟨fun h => exec_clutenc_error_format h,
    fun h hr => exec_clutenc_error_range h hr, fun h hr => ⟨_, exec_clutenc h hr, rfl, fun j =>
      ⟨fun i hi hj => ?_, fun hj => ?_⟩⟩⟩⟩
  · exact (clutFill_inside _ _ _ _ hr hi hj).trans (encodeWord_entryChannels _ _ _)
  · exact clutFill_outside _ _ _ _ hr hj

end Sys2Proof.Proofs
end

section
/-! SUPPORT. GEOSET and GEOGET of an existing layer: the codes they report, what a successful GEOSET leaves in the
results, the record and the history, and what GEOGET decodes whatever is read. -/

namespace Sys2Proof.Machine

open Sys2Proof.Claims

/-! ### The codes of the two operations (60_exceptions R172) -/

/-- An operation that can only report one code, which is no success, does nothing else (60_exceptions R173). -/
theorem failsWith_of_status {i : Instr} {s : State} {code : Word} (hc : code ≠ 0)
    (h : ∀ t, exec i s = .next t → t.status = code) : FailsWith i s code := by
  obtain ⟨t, ht⟩ := exec_next i s
  have hst := h t ht
  obtain ⟨e, rfl⟩ := exec_failing ht (hst ▸ hc)
  rw [FailsWith, ht, ← hst]
  rfl

/-- A command word without a format is its opcode row's pattern with the layer in bits 23:20 (30_encoding R61). -/
theorem commandWord_fmt_zero (op : BitVec 8) (l : BitVec 4) :
    commandWord op l 0 = layerWord (op.zeroExtend 32 <<< 24) l := by
  simp [commandWord, layerWord]

section
variable {s t : State} {l : BitVec 4}

theorem geoset_status (hl : l.toNat < s.params.nlayers) (h : exec (.geoset l) s = .next t) :
    t.status = BitVec.ofNat 32 (if (s.layer l).valid = false then 7 else if BadPosition s l then 3
      else if EmptyRequest s then 4 else 0) := by
  have hwf := wf_of_layer (i := .geoset l) rfl hl
  have hown : ownError s (encode (.geoset l)) = if BadPosition s l then 3 else if EmptyRequest s then 4 else 0 := by
    simp [ownError, encode]
  rw [exec_status hwf h, firstError_encode hwf, hown]
  simp [Instr.opcode, Instr.layer?]

theorem geoget_status (hl : l.toNat < s.params.nlayers) (h : exec (.geoget l) s = .next t) :
    t.status = BitVec.ofNat 32 (if (s.layer l).valid = false then 7 else 0) := by
  have hwf := wf_of_layer (i := .geoget l) rfl hl
  have hown : ownError s (encode (.geoget l)) = 0 := by simp [ownError, encode]
  rw [exec_status hwf h, firstError_encode hwf, hown]
  simp [Instr.opcode, Instr.layer?]

/-- A GEOSET that passes every check succeeds. -/
theorem geoset_succeeds (hl : l.toNat < s.params.nlayers) (hv : (s.layer l).valid = true)
    (hp : ¬ BadPosition s l) (he : ¬ EmptyRequest s) : ∃ t, exec (.geoset l) s = .next t ∧ t.status = 0 := by
  obtain ⟨t, ht⟩ := exec_next (.geoset l) s
  exact ⟨t, ht, by rw [geoset_status hl ht, hv, if_neg (by decide), if_neg hp, if_neg he]; rfl⟩

/-! ### What a successful GEOSET leaves (44_geometry R141) -/

/-- The geometry that `R0..R5` hold. -/
def State.geometryResults (s : State) : Geometry := ⟨s.r[0], s.r[1], s.r[2], s.r[3], s.r[4], s.r[5]⟩

@[simp] theorem State.geometryResults_complete (s : State) (g : Geometry) (v : Word) :
    ((s.setGeometryResults g).setResult 6 v).complete.geometryResults = g := by
  simp [State.geometryResults]

/-- The clamped sizes in numbers (44_geometry R140 rules 3 to 5). -/
theorem validate_sizes {g : Geometry}
    (hg : validate (s.layer l) (layerFormat s l) s.geometryOperands = .ok g) :
    g.w.toNat = clampedWidth s l ∧ g.h.toNat = clampedHeight s l := by
  obtain ⟨hx, hy, rfl⟩ := validate_ok hg
  refine ⟨?_, clampSize_toNat hy⟩
  rw [evenWidth_toNat, clampSize_toNat hx]
  rfl

section
variable (h : exec (.geoset l) s = .next t) (ht : t.status = 0)
include h ht

/-- A GEOSET that succeeds passed every check. -/
theorem geoset_checks : l.toNat < s.params.nlayers ∧ (s.layer l).valid = true ∧ ¬ BadPosition s l ∧
    ¬ EmptyRequest s := by
  obtain ⟨-, hl, hv, -, -⟩ := execGeoset_success h ht
  rw [geoset_status hl h, hv, if_neg (by decide)] at ht
  refine ⟨hl, hv, fun hp => ?_, fun he => ?_⟩
  · rw [if_pos hp] at ht
    exact absurd ht (by decide)
  · split_ifs at ht
    · exact absurd ht (by decide)
    · exact absurd ht (by decide)

/-- `R0..R5` hold the validated request. -/
theorem geoset_validate : validate (s.layer l) (layerFormat s l) s.geometryOperands = .ok t.geometryResults := by
  obtain ⟨g, -, -, hg, rfl⟩ := execGeoset_success h ht
  rw [State.geometryResults_complete]
  exact hg

/-- `R6` is the byte offset (44_geometry R142). -/
theorem geoset_byteOffset : t.r[6].toNat = exactOffset s l % 2 ^ 32 := by
  obtain ⟨g, -, -, hg, rfl⟩ := execGeoset_success h ht
  obtain ⟨-, -, rfl⟩ := validate_ok hg
  exact (congrArg BitVec.toNat (Vector.getElem_set_self _)).trans (toWord_toNat _)

/-- The results are the request with its sizes clamped, and the byte offset (44_geometry R140, R142). -/
theorem geoset_results : t.r[0] = s.a[0] ∧ t.r[1] = s.a[1] ∧ t.r[2].toNat = clampedWidth s l ∧
    t.r[3].toNat = clampedHeight s l ∧ t.r[4] = s.a[4] ∧ t.r[5] = s.a[5] ∧
    t.r[6].toNat = exactOffset s l % 2 ^ 32 := by
  have hg := geoset_validate h ht
  obtain ⟨hw, hh⟩ := validate_sizes hg
  obtain ⟨-, -, hgeo⟩ := validate_ok hg
  exact ⟨congrArg Geometry.x hgeo, congrArg Geometry.y hgeo, hw, hh, congrArg Geometry.xoff hgeo,
    congrArg Geometry.yoff hgeo, geoset_byteOffset h ht⟩

/-- The record takes the geometry of the results and keeps all else. -/
theorem geoset_record : t.layer l = { s.layer l with geo := t.geometryResults } := by
  obtain ⟨g, -, -, -, rfl⟩ := execGeoset_success h ht
  simp [State.layer]

/-- The history grows by the spec's writes in their order (44_geometry R144, R145). -/
theorem geoset_events : t.events = s.events ++ (geometryWrites s l).map fun x => .regWrite l x.1 x.2 := by
  obtain ⟨g, -, -, hg, rfl⟩ := execGeoset_success h ht
  rw [writeSequence_eq_geometryWrites hg]
  simp

end

/-! ### What GEOGET decodes (44_geometry R148) -/

/-- The words that the reads of GEOGET return; under `GEN = 1` the last two are not read. -/
def State.geometryReads (s : State) (l : BitVec 4) : GeometryReads :=
  let hp := s.regRead l .hpos
  let vp := hp.2.regRead l .vpos
  let hs := vp.2.regRead l .hsize
  let vs := hs.2.regRead l .vsize
  let xo := vs.2.regRead l .hoff
  let yo := xo.2.regRead l .voff
  ⟨hp.1, vp.1, hs.1, vs.1, xo.1, yo.1⟩

/-- They are what GEOGET decodes, and they are recorded in their order. -/
theorem readGeometry_decodes (s : State) (l : BitVec 4) (L : LayerRecord) :
    (readGeometry s l L).1 = decodedReads (s.geometryReads l) s.params.gen L ∧
    (readGeometry s l L).2.events =
      s.events ++ ((s.geometryReads l).reads s).map fun x => .regRead l x.1 x.2 := by
  unfold readGeometry GeometryReads.reads
  cases s.params.gen with
  | offsetRegisters => exact ⟨rfl, by simp [State.geometryReads]⟩
  | dynamicAddressing => exact ⟨rfl, by simp [State.geometryReads]⟩

/-- Recorded reads, wherever their values came from, are decoded into the results. -/
theorem decodedFrom_of_onlyReads {u : State} {g : GeometryReads} (hu : OnlyReads s u)
    (he : u.events = s.events ++ (g.reads s).map fun x => .regRead l x.1 x.2) :
    DecodedFrom s (u.setGeometryResults (decodedReads g s.params.gen (s.layer l))).complete l g := by
  unfold OnlyReads at hu
  rw [he] at hu
  rw [hu]
  obtain ⟨-, hresults⟩ := decodedFrom_afterReads s l g
  exact ⟨by ext1 <;> simp [statusOk], hresults⟩

/-- GEOGET of a configured layer decodes whatever its reads return. -/
theorem geoget_decodes (hl : l.toNat < s.params.nlayers) (hv : (s.layer l).valid = true) :
    ∃ t g, exec (.geoget l) s = .next t ∧ DecodedFrom s t l g := by
  obtain ⟨hg, he⟩ := readGeometry_decodes s l (s.layer l)
  exact ⟨_, _, exec_geoget hl hv, hg ▸ decodedFrom_of_onlyReads (onlyReads_readGeometry ..) he⟩

end

/-! ### The clamped width in numbers (44_geometry R140 rules 3 and 5) -/

/-- With `w` the width that fits of the request: the clamped width is `w` or, where a 4:2:2 format makes an odd `w`
above 2 even, one less. -/
theorem clampedWidth_bounds (s : State) (l : BitVec 4) {w : Nat}
    (hw : w = min s.a[2].toNat ((s.layer l).visw.toNat - s.a[0].toNat)) :
    clampedWidth s l ≤ w ∧ w ≤ clampedWidth s l + 1 ∧ (clampedWidth s l = 0 ↔ w = 0) ∧
    ((layerFormat s l).is422 = true → 2 < clampedWidth s l → clampedWidth s l % 2 = 0) ∧
    ((layerFormat s l).is422 = false ∨ w ≤ 2 ∨ w % 2 = 0 → clampedWidth s l = w) := by
  have hclamped : clampedWidth s l = if (layerFormat s l).is422 = true ∧ 2 < w then w - w % 2 else w := by
    rw [hw]; rfl
  by_cases h : (layerFormat s l).is422 = true ∧ 2 < w
  · rw [if_pos h] at hclamped
    obtain ⟨hf, hlt⟩ := h
    refine ⟨by omega, by omega, by omega, fun _ _ => by omega, fun hk => ?_⟩
    have hodd : w ≤ 2 ∨ w % 2 = 0 := hk.resolve_left (by simp [hf])
    omega
  · rw [if_neg h] at hclamped
    rw [hclamped]
    exact ⟨le_rfl, by omega, Iff.rfl, fun hf hlt => absurd ⟨hf, hlt⟩ h, fun _ => rfl⟩

/-! ### The position encoding in numbers (44_geometry R143) -/

/-- Below the resolution the encoded position does not wrap. -/
theorem encodePosition_toNat {V : BitVec 16} {x : Word} (h : x.toNat < V.toNat) :
    (encodePosition V x).toNat = V.toNat - (x.toNat + 1) := by
  have hV := zeroExtend32_toNat V
  simp only [encodePosition]
  bv_omega

end Sys2Proof.Machine

namespace Sys2Proof.Proofs

open Sys2Proof.Machine Sys2Proof.Claims

/-- Settles O32: the code of the first failing check, or the effects of a success. -/
theorem geosetAppliesTheClampedRequest : Obligations.GeosetAppliesTheClampedRequest := by
  unfold Obligations.GeosetAppliesTheClampedRequest
  refine fun l => ⟨commandWord_fmt_zero 0x30 l, fun s => ⟨fun hl hv => ?_, fun hl hv hp => ?_,
    fun hl hv hp he => ?_, fun hl hv hp he => ?_⟩⟩
  · exact failsWith_of_status (by decide) fun t ht => by rw [geoset_status hl ht, if_pos hv]; rfl
  · refine failsWith_of_status (by decide) fun t ht => ?_
    rw [geoset_status hl ht, hv, if_neg (by decide), if_pos hp]
    rfl
  · refine failsWith_of_status (by decide) fun t ht => ?_
    rw [geoset_status hl ht, hv, if_neg (by decide), if_neg hp, if_pos he]
    rfl
  · obtain ⟨t, h, ht⟩ := geoset_succeeds hl hv hp he
    obtain ⟨hframe, hlayers, -⟩ := geoset_frame h
    obtain ⟨h0, h1, h2, h3, h4, h5, h6⟩ := geoset_results h ht
    exact ⟨t, h, ht ▸ hframe, h0, h1, h2, h3, h4, h5, h6,
      unnamedResultsKeepTheirValue _ _ _ h 7 (by simp [writtenResults]), geoset_record h ht, hlayers,
      geoset_events h ht⟩

/-- Settles O33, from the clamped sizes as numbers. -/
theorem clampedGeometryFitsTheVisibleArea : Obligations.ClampedGeometryFitsTheVisibleArea := by
  unfold Obligations.ClampedGeometryFitsTheVisibleArea
  intro s t l h ht
  obtain ⟨-, -, hp, he⟩ := geoset_checks h ht
  obtain ⟨h0, h1, h2, h3, -, -, -⟩ := geoset_results h ht
  obtain ⟨hx, hy⟩ := not_or.1 hp
  obtain ⟨hw, hh⟩ := not_or.1 he
  obtain ⟨hle, hlt, hzero, heven, hkeep⟩ := clampedWidth_bounds s l rfl
  have hheight : clampedHeight s l = min s.a[3].toNat ((s.layer l).vish.toNat - s.a[1].toNat) := rfl
  rw [← BitVec.toNat_inj, ← BitVec.toNat_inj, h0, h1, h2, h3]
  refine ⟨by omega, by omega, heven, by omega, by omega, fun hfit => ?_, by omega⟩
  rw [Nat.min_eq_left (by omega)] at hlt hkeep
  exact ⟨hkeep, hlt⟩

/-- Settles O34. -/
theorem geogetDecodesWhateverIsRead : Obligations.GeogetDecodesWhateverIsRead := by
  unfold Obligations.GeogetDecodesWhateverIsRead
  refine fun l => ⟨commandWord_fmt_zero 0x31 l, fun s hl => ⟨fun hv => ?_, geoget_decodes hl⟩⟩
  exact failsWith_of_status (by decide) fun t ht => by rw [geoget_status hl ht, if_pos hv]; rfl

/-- Settles O35. -/
theorem registerEncodingsInvertExactly : Obligations.RegisterEncodingsInvertExactly := by
  unfold Obligations.RegisterEncodingsInvertExactly
  exact fun V x w => ⟨decodePosition_encodePosition V x, decodeSize_encodeSize w, encodePosition_toNat⟩

end Sys2Proof.Proofs
end

section
/-! SUPPORT. What every quiet step keeps: the parameters, the layer's record and the words of its geometry slots; so
GEOGET finds what the last GEOSET left. -/

namespace Sys2Proof.Machine

open Sys2Proof.Claims

/-! ### Steps that issue a command -/

/-- Only a 32-bit access at offset 0 reaches `CMD` (20_memory R41). -/
theorem hostTarget_eq_cmd {width offset : Nat} (h : hostTarget width offset = .ok .cmd) :
    width = 32 ∧ offset = 0 := by
  unfold hostTarget at h
  split_ifs at h with hw h4 hlt
  rw [not_ne_iff] at hw h4
  refine ⟨hw, ?_⟩
  have hreg : hostRegAt (offset / 4) = .cmd := Except.ok.inj h
  unfold hostRegAt at hreg
  split_ifs at hreg with h0
  omega

/-- A host write inside the contract is a command, at offset 0, or changes no more than the host may. -/
theorem hostWrite_target_cases {width offset : Nat} {r : HostReg} {v : Word} {s t : State}
    (hr : hostTarget width offset = .ok r) (h : hostWrite r v s = .next t) :
    (width = 32 ∧ offset = 0 ∧ runCommand v s = .next t) ∨ OnlyHost s t := by
  cases r with
  | cmd =>
    obtain ⟨hw, ho⟩ := hostTarget_eq_cmd hr
    exact .inl ⟨hw, ho, h⟩
  | _ => obtain rfl := next_inj h; exact .inr rfl

/-- The kinds of step, with the word of the command: `step_cases` where the word matters. -/
theorem step_commandOf {s t : State} (h : step s = .next t) :
    (∃ rest w, commandOf s = some w ∧ runCommand w (s.setPending rest) = .next t) ∨
    (∃ rest, s.pending = .reset :: rest) ∨ OnlyHost s t := by
  unfold step stepHost at h
  split at h
  · obtain rfl := next_inj h; exact .inr (.inr rfl)
  · next act rest hp =>
    cases act with
    | write width offset v =>
      simp only [serve] at h
      split at h
      · cases h
      · next r hr =>
        rcases hostWrite_target_cases hr h with ⟨rfl, rfl, hrun⟩ | hhost
        · exact .inl ⟨rest, v, by simp [commandOf, hp], hrun⟩
        · exact .inr (.inr hhost)
    | read width offset =>
      simp only [serve] at h
      split at h
      · cases h
      · obtain rfl := next_inj h
        exact .inr (.inr (onlyHost_hostRead ..))
    | writeBack width offset =>
      simp only [serve] at h
      split at h
      · cases h
      · next r hr =>
        rcases hostWrite_target_cases hr h with ⟨rfl, rfl, hrun⟩ | hhost
        · exact .inl ⟨rest, s.readData, by simp [commandOf, hp], hrun⟩
        · exact .inr (.inr hhost)
    | stopOnError count => obtain rfl := next_inj h; exact .inr (.inr rfl)
    | reset => exact .inr (.inl ⟨rest, hp⟩)

/-! ### What is kept (44_geometry R149) -/

/-- The numbers of the slots that hold a layer's geometry: 0 to 5 and 9 (44_geometry R149). -/
abbrev GeometrySlot (n : Nat) : Prop := n < 6 ∨ n = 9

/-- From `s` to `t` all that GEOGET of layer `l` depends on is kept, but for the oracle's answers. -/
structure KeepsGeometry (l : BitVec 4) (s t : State) : Prop where
  params : t.params = s.params
  layer : t.layer l = s.layer l
  slots : ∀ c : Slot, GeometrySlot c.number → t.hw.read (slotKey l c) = s.hw.read (slotKey l c)

section
variable {l : BitVec 4} {s t u : State}

theorem KeepsGeometry.of_eq (hp : t.params = s.params) (hl : t.layers = s.layers) (hh : t.hw = s.hw) :
    KeepsGeometry l s t :=
  ⟨hp, State.layer_congr hl l, fun _ _ => by rw [hh]⟩

theorem KeepsGeometry.trans (h1 : KeepsGeometry l s t) (h2 : KeepsGeometry l t u) : KeepsGeometry l s u :=
  ⟨h2.params.trans h1.params, h2.layer.trans h1.layer, fun c hc => (h2.slots c hc).trans (h1.slots c hc)⟩

/-- The effects that leave the geometry of layer `l` alone. -/
theorem Effect.keepsGeometry {i : Instr} (h : Effect s i u) (hlcfg : i ≠ .lcfg l) (hgeoset : i ≠ .geoset l)
    (hregwr : i = .regwr l → ¬ GeometrySlot s.a[0].toNat) : KeepsGeometry l s u := by
  cases h with
  | pure hi => exact .of_eq rfl rfl rfl
  | lcfg hl hs =>
    exact ⟨rfl, State.layer_setLayer_other s _ fun e => hlcfg (e ▸ rfl), fun _ _ => rfl⟩
  | clutenc c => exact .of_eq rfl rfl rfl
  | @geoset l' g hl hv hg =>
    have hne : l ≠ l' := fun e => hgeoset (e ▸ rfl)
    refine ⟨by simp, ?_, fun c hc => ?_⟩
    · rw [State.layer_regWrites]
      exact State.layer_setLayer_other s _ hne
    · exact State.regWrites_read_other (s.setLayer l' _) l' _ fun _ _ hk => hne (slotKey_injective hk).1
  | geoget hl => exact .of_eq (by simp) (by simp) (by simp)
  | regrd c hl => exact .of_eq (by simp) (by simp) (by simp)
  | @regwr l' c' hl hc' =>
    refine ⟨rfl, rfl, fun c hc => State.regWrite_read_other s l' c' _ fun hk => ?_⟩
    obtain ⟨rfl, rfl⟩ := slotKey_injective hk
    have hslot : s.a[0].toNat = c.number := hc'
    exact hregwr rfl (hslot ▸ hc)

/-- The operations that do. -/
theorem exec_keepsGeometry {i : Instr} (h : exec i s = .next t) (hlcfg : i ≠ .lcfg l)
    (hgeoset : i = .geoset l → t.status ≠ 0) (hregwr : i = .regwr l → ¬ GeometrySlot s.a[0].toNat) :
    KeepsGeometry l s t := by
  rcases exec_cases h with ⟨e, rfl⟩ | ⟨u, ws, hu, -, rfl⟩
  · exact .of_eq rfl rfl rfl
  · exact (hu.keepsGeometry hlcfg (fun hi => hgeoset hi rfl) hregwr).trans (.of_eq (by simp) (by simp) (by simp))

/-- A quiet step keeps the geometry of the layer. -/
theorem quietStep_keepsGeometry (h : QuietStep l s t) : KeepsGeometry l s t := by
  obtain ⟨hstep, hquiet⟩ := h
  obtain ⟨hreset, hcmd⟩ := not_or.1 hquiet
  rcases step_commandOf hstep with ⟨rest, w, hw, hrun⟩ | hr | hhost
  · rcases runCommand_next hrun with ⟨i, hi, hexec⟩ | rfl
    · have hnot := fun hd => hcmd ⟨w, hw, hd⟩
      have hi' : decode s.params.nlayers w = .ok i := hi
      rw [hi'] at hnot
      have hloaded : KeepsGeometry l s ((s.setPending rest).setCmd w) := .of_eq rfl rfl rfl
      exact hloaded.trans (exec_keepsGeometry hexec (fun e => hnot (.inl (e ▸ rfl)))
        (fun e ht => hnot (.inr (.inl ⟨e ▸ rfl, ht⟩))) (fun e hc => hnot (.inr (.inr ⟨e ▸ rfl, hc⟩))))
    · exact .of_eq rfl rfl rfl
  · exact absurd hr hreset
  · rw [hhost]
    exact .of_eq rfl rfl rfl

/-- So does a quiet run. -/
theorem quietRun_keepsGeometry (h : Relation.ReflTransGen (QuietStep l) s t) : KeepsGeometry l s t := by
  induction h with
  | refl => exact .of_eq rfl rfl rfl
  | tail _ hstep ih => exact ih.trans (quietStep_keepsGeometry hstep)

/-! ### What GEOGET finds -/

/-- Writing the geometry that a state's results hold makes `R0..R5` equal. -/
theorem State.setGeometryResults_r_of_geometryResults (s t : State) {k : Fin 8} (hk : k.val < 6) :
    (s.setGeometryResults t.geometryResults).r[k] = t.r[k] := by
  obtain ⟨k, _⟩ := k
  interval_cases k <;> simp [State.geometryResults]

/-- The words that a layer's record stands for, as GEOGET reads them (44_geometry R143). -/
def encodedReads (L : LayerRecord) : GeometryReads where
  hp := encodePosition L.visw L.geo.x
  vp := encodePosition L.vish L.geo.y
  hs := encodeSize L.geo.w
  vs := encodeSize L.geo.h
  xo := L.geo.xoff
  yo := L.geo.yoff

/-- Decoding them gives back the recorded geometry. -/
theorem decodedReads_encodedReads (gen : Gen) (L : LayerRecord) : decodedReads (encodedReads L) gen L = L.geo := by
  cases gen <;> simp [decodedReads, encodedReads, decodePosition_encodePosition, decodeSize_encodeSize]

/-- GEOGET reads geometry slots only (44_geometry R148). -/
theorem geometrySlot_of_mem_reads (g : GeometryReads) (s : State) : ∀ x ∈ g.reads s, GeometrySlot x.1.number := by
  unfold GeometryReads.reads
  cases s.params.gen <;> simp [Slot.number, GeometrySlot]

/-- GEOSET writes every word that GEOGET reads (44_geometry R144, R145). -/
theorem reads_subset_writeSequence (s : State) (L : LayerRecord) (g : Geometry) (bo : Word) :
    (encodedReads { L with geo := g }).reads s ⊆ writeSequence s.params.gen L g bo := by
  unfold GeometryReads.reads
  cases s.params.gen <;> simp [encodedReads, writeSequence, offsetSequence, addressSequence]

/-- Which slots GEOGET reads depends on the parameters only. -/
theorem reads_congr (hp : t.params = s.params) (g : GeometryReads) : g.reads t = g.reads s := by
  simp only [GeometryReads.reads, hp]

/-- After a GEOSET the shadow policy answers GEOGET with the words of the record. -/
theorem answers_of_geoset (h : exec (.geoset l) s = .next t) (ht : t.status = 0) (hc : s.params.collab = .shadow) :
    Answers t l ((encodedReads (t.layer l)).reads t) := by
  have hparams := exec_params h
  obtain ⟨hwritten, -, -⟩ := Proofs.regWritesLandInTheirOwnSlots.1 s t l h ht
  have hsub : (encodedReads (t.layer l)).reads t ⊆ geometryWrites s l := by
    rw [reads_congr hparams, geoset_record h ht, ← writeSequence_eq_geometryWrites (geoset_validate h ht)]
    exact reads_subset_writeSequence ..
  exact .inl ⟨hparams ▸ hc, fun x hx => hwritten hc x (hsub hx)⟩

/-- Under the shadow policy the answers to GEOGET are kept. -/
theorem KeepsGeometry.answers (hk : KeepsGeometry l s t) {g : GeometryReads} (hc : s.params.collab = .shadow)
    (h : Answers s l (g.reads s)) : Answers t l (g.reads t) := by
  rcases h with ⟨-, hread⟩ | ⟨ho, -⟩
  · refine .inl ⟨hk.params ▸ hc, fun x hx => ?_⟩
    rw [reads_congr hk.params] at hx
    exact (hk.slots x.1 (geometrySlot_of_mem_reads g s x hx)).trans (hread x hx)
  · rw [hc] at ho; cases ho

end

end Sys2Proof.Machine

namespace Sys2Proof.Proofs

open Sys2Proof.Machine Sys2Proof.Claims

/-- Settles O36: the run keeps what GEOSET left of the layer, in the record and in its slots, and GEOGET decodes
that. -/
theorem geogetRecoversTheLastGeoset : Obligations.GeogetRecoversTheLastGeoset := by
  unfold Obligations.GeogetRecoversTheLastGeoset
  intro s t u l h ht hrun
  have hkeep := quietRun_keepsGeometry hrun
  have hparams : u.params = s.params := hkeep.params.trans (exec_params h)
  have hrecord : u.layer l = { s.layer l with geo := t.geometryResults } := hkeep.layer.trans (geoset_record h ht)
  obtain ⟨hl, hv, -, -⟩ := geoset_checks h ht
  have hul : l.toNat < u.params.nlayers := hparams ▸ hl
  have huv : (u.layer l).valid = true := by rw [hrecord]; exact hv
  obtain ⟨v, g, hexec, hframe, -, -, -, -, -, hoffsets, -, -⟩ := geoget_decodes hul huv
  refine ⟨v, hexec, congrArg State.status hframe, fun hc k hk => ?_, fun hgen => ?_⟩
  · have hanswers : Answers u l ((encodedReads (u.layer l)).reads u) := by
      rw [hkeep.layer]
      exact hkeep.answers (exec_params h ▸ hc) (answers_of_geoset h ht hc)
    obtain rfl := next_inj (hexec.symm.trans (exec_geoget_of_answers hul huv hanswers))
    rw [decodedReads_encodedReads, hrecord]
    exact State.setGeometryResults_r_of_geometryResults _ t hk
  · rw [hrecord] at hoffsets
    exact hoffsets (hparams ▸ hgen)

end Sys2Proof.Proofs
end

section
/-! SUPPORT. REGRD and REGWR of an existing layer: the refusal of a slot number, and all that one access changes. -/

namespace Sys2Proof.Machine

open Sys2Proof.Claims

/-- A slot number of 10 or more is refused before the access (45_regaccess R160). -/
theorem exec_regAccess_slot_error {s : State} {l : BitVec 4} {i : Instr} (hi : i = .regrd l ∨ i = .regwr l)
    (hl : l.toNat < s.params.nlayers) (h : 10 ≤ s.a[0].toNat) :
    exec i s = .next (s.raise .registerPermissionDenied) := by
  have hslot : checkSlot (s.operand 0) = .error .registerPermissionDenied := checkSlot_error h
  rcases hi with rfl | rfl
  · simp only [exec, execRegrd, checkLayer_ok hl, hslot, except_ok_bind, except_error_bind, finish_error]
  · simp only [exec, execRegwr, checkLayer_ok hl, hslot, except_ok_bind, except_error_bind, finish_error]

end Sys2Proof.Machine

namespace Sys2Proof.Proofs

open Sys2Proof.Machine Sys2Proof.Claims

/-- Settles O37: a slot number is refused or names the one slot that is read, and a `RegRead` changes only the
history and where the next free value comes from. -/
theorem regrdReadsExactlyOneSlot : Obligations.RegrdReadsExactlyOneSlot := by
  unfold Obligations.RegrdReadsExactlyOneSlot
  refine fun l => ⟨commandWord_fmt_zero 0x38 l, fun s hl =>
    ⟨exec_regAccess_slot_error (.inl rfl) hl, fun c hc => ⟨_, (s.regRead l c).1, exec_regrd hl hc, ?_⟩⟩⟩
  rw [State.regRead_state]
  rfl

/-- Settles O38: a slot number is refused or names the one slot that is written, and a `RegWrite` changes only the
history and the collaborator's array. -/
theorem regwrWritesExactlyOneSlot : Obligations.RegwrWritesExactlyOneSlot := by
  unfold Obligations.RegwrWritesExactlyOneSlot
  exact fun l => ⟨commandWord_fmt_zero 0x39 l, fun s hl =>
    ⟨exec_regAccess_slot_error (.inr rfl) hl, fun c hc => ⟨_, exec_regwr hl hc, rfl⟩⟩⟩

end Sys2Proof.Proofs
end

section
/-! SUPPORT. The end of a command that fails: only `CMD` and `STATUS` differ from the state before. -/

namespace Sys2Proof.Machine

/-- An operation that fails leaves the state before it with its own code (60_exceptions R173). -/
theorem exec_failing_state {i : Instr} {s t : State} (h : exec i s = .next t) (ht : t.status ≠ 0) :
    t = s.setStatus t.status := by
  obtain ⟨e, rfl⟩ := exec_failing h ht
  rfl

/-- A command word that fails, legal or not, leaves the state before it with the word in `CMD` and the code in
`STATUS` (30_encoding R63, 60_exceptions R173). -/
theorem runCommand_failing_state {w : Word} {s t : State} (h : runCommand w s = .next t) (ht : t.status ≠ 0) :
    t = (s.setCmd w).setStatus t.status := by
  rcases runCommand_next h with ⟨i, -, hi⟩ | rfl
  · exact exec_failing_state hi ht
  · rfl

end Sys2Proof.Machine

namespace Sys2Proof.Proofs

open Sys2Proof.Machine Sys2Proof.Claims

/-- Settles O8. -/
theorem everyOperationCompletes : Obligations.EveryOperationCompletes := by
  unfold Obligations.EveryOperationCompletes
  intro i s
  obtain ⟨t, ht⟩ := exec_next i s
  exact ⟨t, ht, exec_cmd_pending ht⟩

/-- Settles O9: the write of `CMD` runs the word, and a word that fails changes no more. -/
theorem failingCommandChangesOnlyStatus : Obligations.FailingCommandChangesOnlyStatus := by
  unfold Obligations.FailingCommandChangesOnlyStatus
  intro s t w rest hp h ht
  have hrun : runCommand w (s.setPending rest) = .next t := (step_command hp).symm.trans h
  exact runCommand_failing_state hrun ht

/-- Settles O10: every word is answered, and `runCommand_status` follows the checks of each operation to the code;
neither `CMD` nor the pending actions are read by a check. -/
theorem firstFailingCheckDeterminesTheCode : Obligations.FirstFailingCheckDeterminesTheCode := by
  unfold Obligations.FirstFailingCheckDeterminesTheCode
  intro s w rest hp
  obtain ⟨t, ht⟩ := runCommand_answers w (s.setPending rest)
  exact ⟨t, (step_command hp).trans ht, (runCommand_status ht :)⟩

/-- Settles O12: the failure changed `STATUS` only, which no operation reads. -/
theorem reissuedFailureFailsAgain : Obligations.ReissuedFailureFailsAgain := by
  unfold Obligations.ReissuedFailureFailsAgain
  intro i s t h ht
  calc exec i t = exec i (s.setStatus t.status) := congrArg (exec i) (exec_failing_state h ht)
    _ = exec i s := exec_setStatus i s t.status
    _ = .next t := h

end Sys2Proof.Proofs
end
